-- ==== Sys2Proof/Word.lean ====
section
/-!
DEFINITION. The words of the reader block and their plainest arithmetic (`00_scope.md` section 6,
`30_encoding.md` R70, R72, R74, R75): widths only, no meaning.
-/

namespace Sys2Proof

/-- A level of a line: `false` is 0 (low), `true` is 1 (high) (`00_scope.md` section 6). -/
abbrev Level := Bool

/-- One byte of the hardware strategy (R30). -/
abbrev Byte := BitVec 8

/-- A raw frame: 32 bits, bit 31 first on the wire (R51, R70). -/
abbrev Frame := BitVec 32

/-- The command opcode `CMD[1:0]`, format `C` (R72). -/
abbrev CmdCode := BitVec 2

/-- The strap `MODE`, format `K` (R74). -/
abbrev Strap := BitVec 1

/-- `RES_DATA[17:0]`, an 18-bit two's complement integer (R75). -/
abbrev ResData := BitVec 18

end Sys2Proof
end

