-- ==== Sys2Proof/Config.lean ====
section
/-!
DEFINITION. What one instance fixes (the device handle's vocabulary, `10_state.md` section 2) and what the spec
leaves open: the parameters of R7 that have no value, and the peer's answers (R60). Every open one is an opaque
constant without a body, so that no proof can know its value.
-/

namespace Sys2Proof

/-- The transport strategy (R21): the strap value 0 is `manual`, 1 is `hardware` (R74, D2). -/
inductive Mode where
  | manual
  | hardware
  deriving DecidableEq, Repr, Inhabited

/-- A line identifier: an opaque name; no rule computes with it (R22, D17). -/
structure LineId where
  name : Nat
  deriving DecidableEq, Repr, Inhabited

/-- `BITORDER` takes exactly one value and is hardwired (R24, R54). -/
inductive BitOrder where
  | msbFirst
  deriving DecidableEq, Repr

/-- `SPIMODE` takes exactly one value and is hardwired: clock idle low, sample on the rising edge (R24). -/
inductive SpiMode where
  | mode0
  deriving DecidableEq, Repr

/-- The bus configuration that the hardware construction makes (R24, R102, R147). -/
structure BusConfig where
  bitOrder : BitOrder
  spiMode : SpiMode
  clkDiv : Nat
  deriving DecidableEq, Repr

/-- The strap `MODE` of the instance whose construction `State.reset` is (R7: an argument of the model; log 5). -/
opaque Config.strap : Mode

/-- The chip-select identifier of that instance (R7, R22; log 5). -/
opaque Config.csId : LineId

/-- The clock-line identifier of that instance, used when its strap is `manual` (R7, R22; log 5). -/
opaque Config.clkId : LineId

/-- The data-in-line identifier of that instance, used when its strap is `manual` (R7, R22; log 5). -/
opaque Config.misoId : LineId

/-- `SPI_CLK_DIV`: OPEN, no rule reads it (R7, R24, D13; log 11). -/
opaque Config.spiClkDiv : Nat

/-- `T_SETTLE`, the duration of one settling delay: OPEN, no rule reads it (R7, R93, D7; log 11). -/
opaque Config.tSettle : Nat

/-- The oracle where nothing is written out: the answer to sample `i` of acquisition `n` of the `life`-th
construction. A FREE VALUE (R60, U1, U14, U15; log 2, log 3). -/
opaque Config.sample (life n : Nat) (i : Fin 32) : Level

end Sys2Proof
end

