-- ==== Sys2Proof/Syntax.lean ====
section
/-!
DEFINITION. The six operations of `spec/opcode_table.json`, one constructor a row, and the forms in which the host
presents them: a code on the command port (format `C`, R72) or a strap level with line identifiers (format `K`, R74).
-/

namespace Sys2Proof

/-- The operations (R73, R74). A read command has no operand (R72); a construction takes its line identifiers in
the source's order, clock, chip-select, data-in (R146), or chip-select alone (R147). -/
inductive Instr where
  | readInternal
  | readCelsius
  | readFahrenheit
  | readError
  | constructManual (clk cs miso : LineId)
  | constructHw (cs : LineId)
  deriving DecidableEq, Repr

/-- The two ports an operation can arrive on: `CMD` with `START` (R140), and the strap read at reset release (R74). -/
inductive Port where
  | command
  | strap
  deriving DecidableEq, Repr

/-- What the host presents. `command c` is `CMD = c` with `START` asserted (R140). `strap m ids` is a release of reset
with the strap at `m` and the ports bound to the lines `ids` (R74, R180): the identifiers are not encoded, they come
beside the strap as the entry point's operands. -/
inductive Request where
  | command (code : CmdCode)
  | strap (level : Strap) (ids : List LineId)
  deriving DecidableEq, Repr

/-- The port a request stands on. -/
def Request.port : Request → Port
  | .command _ => .command
  | .strap _ _ => .strap

end Sys2Proof
end

