-- ==== Sys2Proof/WellFormed.lean ====
section
/-!
DEFINITION. Which operations are well formed. A read command always is (R72, R76: no operand, no illegal code). A
construction is well formed when it is correctly wired, that is when its identifiers name different lines: the spec
speaks only of such instances (U11). The block checks none of this (R146, D22), so neither the decoder nor a meaning
looks at it: it is a premise claims may take (`Safety.lean`), not a gate.
-/

namespace Sys2Proof

/-- The clock and chip-select identifiers differ. -/
def Instr.clkNotCs : Instr → Bool
  | .constructManual clk cs _ => clk ≠ cs
  | .readInternal | .readCelsius | .readFahrenheit | .readError | .constructHw _ => true

/-- The chip-select and data-in identifiers differ. -/
def Instr.csNotMiso : Instr → Bool
  | .constructManual _ cs miso => cs ≠ miso
  | .readInternal | .readCelsius | .readFahrenheit | .readError | .constructHw _ => true

/-- The clock and data-in identifiers differ. -/
def Instr.clkNotMiso : Instr → Bool
  | .constructManual clk _ miso => clk ≠ miso
  | .readInternal | .readCelsius | .readFahrenheit | .readError | .constructHw _ => true

/-- Well-formedness: no line is named twice (U11). -/
def Instr.wellFormed (i : Instr) : Bool :=
  i.clkNotCs && i.csNotMiso && i.clkNotMiso

end Sys2Proof
end

