-- ==== Sys2Proof/Decode.lean ====
section
/-!
DEFINITION. Decoding what the host presents, and the encoder, both written from `30_encoding.md` R72 to R76. All four
command codes and both strap levels are defined (R76); what is refused by name is a presentation that is none of them:
a byte with bits outside the port, no byte or more than one, or a construction with the wrong number of identifiers.
-/

namespace Sys2Proof

/-- Why a presentation is no operation of the block. -/
inductive DecodeError where
  /-- A strap level came with a number of identifiers that no entry point takes (R74). -/
  | identifierCount
  /-- No byte was presented (R79: a command is always 2 bits). -/
  | noByte
  /-- More than one byte was presented (R79: there is no longer form). -/
  | extraBytes
  /-- The byte has bits set outside the port's width (R72, R74). -/
  | outsidePort
  deriving DecidableEq, Repr

/-- The opcode map of R73: total, since all four codes are defined (R76). -/
def decodeCommand (c : CmdCode) : Instr :=
  match c.toNat with
  | 0 => .readInternal
  | 1 => .readCelsius
  | 2 => .readFahrenheit
  | _ => .readError

/-- The strap map of R74: 0 is entry point (a) with clock, chip-select and data-in, 1 is entry point (b) with
chip-select alone. -/
def decodeStrap (m : Strap) (ids : List LineId) : Except DecodeError Instr :=
  match m.toNat, ids with
  | 0, [clk, cs, miso] => .ok (.constructManual clk cs miso)
  | 1, [cs] => .ok (.constructHw cs)
  | _, _ => .error .identifierCount

/-- The operation a request stands for. -/
def decode : Request → Except DecodeError Instr
  | .command c => .ok (decodeCommand c)
  | .strap m ids => decodeStrap m ids

/-- The request on a port that carries one byte `b`: the port takes its 2 (R72) or 1 (R74) low bits, and every other
bit must be 0. `ids` are the identifiers beside a strap; they mean nothing on the command port. -/
def requestOfByte (p : Port) (b : Byte) (ids : List LineId) : Except DecodeError Request :=
  match p with
  | .command => if b.toNat < 4 then .ok (.command (b.setWidth 2)) else .error .outsidePort
  | .strap => if b.toNat < 2 then .ok (.strap (b.setWidth 1) ids) else .error .outsidePort

/-- The request that a list of bytes presents on a port: exactly one byte (R79). -/
def requestOfBytes (p : Port) (bytes : List Byte) (ids : List LineId) : Except DecodeError Request :=
  match bytes with
  | [] => .error .noByte
  | [b] => requestOfByte p b ids
  | _ :: _ :: _ => .error .extraBytes

/-- Decoding any bytes on a port: total, refusing by name. -/
def decodeBytes (p : Port) (bytes : List Byte) (ids : List LineId) : Except DecodeError Instr :=
  match requestOfBytes p bytes ids with
  | .ok r => decode r
  | .error e => .error e

/-- The encoder (R73, R74): the request that presents an operation. -/
def encode : Instr → Request
  | .readInternal => .command 0b00#2
  | .readCelsius => .command 0b01#2
  | .readFahrenheit => .command 0b10#2
  | .readError => .command 0b11#2
  | .constructManual clk cs miso => .strap 0#1 [clk, cs, miso]
  | .constructHw cs => .strap 1#1 [cs]

/-- The byte a request puts on its port. -/
def Request.byte : Request → Byte
  | .command c => c.setWidth 8
  | .strap m _ => m.setWidth 8

/-- The identifiers that stand beside a request. -/
def Request.ids : Request → List LineId
  | .command _ => []
  | .strap _ ids => ids

/-- Whether the operation arrives on the command port and so needs `BUSY = 0` (R140); a construction is a release of
reset, which can come at any time (R182). -/
def Instr.isCommand : Instr → Bool
  | .readInternal => true
  | .readCelsius => true
  | .readFahrenheit => true
  | .readError => true
  | .constructManual _ _ _ => false
  | .constructHw _ => false

/-- A word of `spec/opcode_table.json` as a request (log 12). The rows of formats `C` and `K` share word values, since
they stand on different ports; the width tells them apart: a word of 1 bit is the strap, with the identifiers that
`Config` names (R74: identifiers are not encoded), and any other is the byte of the command port. -/
def requestOfTableWord (nbits w : Nat) : Option Request :=
  if nbits = 1 then
    match w with
    | 0 => some (.strap 0#1 [Config.clkId, Config.csId, Config.misoId])
    | 1 => some (.strap 1#1 [Config.csId])
    | _ => none
  else if w < 4 then some (.command (BitVec.ofNat 2 w))
  else none

/-- The operation the decoder reads from a word of the opcode table. -/
def decodeTableWord (nbits w : Nat) : Option Instr :=
  match requestOfTableWord nbits w with
  | some r =>
    match decode r with
    | .ok i => some i
    | .error _ => none
  | none => none

end Sys2Proof
end

