-- ==== Sys2Proof/Machine/State.lean ====
section
/-!
DEFINITION. The complete state of one instance (`10_state.md` R20), as plain data, its reset values (R37), and the
reasons a step can stop. Three fields at the end are the model's own: what the host and the peer do in the steps to
come, written out as data.
-/

namespace Sys2Proof.Machine

/-- The output lines (R25, R26, R27). -/
inductive OutLine where
  | cs
  | sck
  | mosi
  deriving DecidableEq, Repr

/-- The positions of the sequencer, the block's program counter (R31): rest, the manual sequence (R96 to R98), the
hardware sequence (R103 to R107), and the decode position. -/
inductive Pos where
  | idle
  | m1a
  | m1b
  | m1c
  | m1d
  | m2a (i : Fin 32)
  | m2b (i : Fin 32)
  | m2c (i : Fin 32)
  | m2d (i : Fin 32)
  | m2e (i : Fin 32)
  | m3
  | h2a
  | h2b
  | h3r (k : Fin 4) (j : Fin 8)
  | h3f (k : Fin 4) (j : Fin 8)
  | h4
  | dec
  deriving DecidableEq, Repr

/-- The events of the trace (`00_scope.md` section 6, R33): `W(L,b)`, `S(b)`, `D`, `RESULT(op, valid, data)`. -/
inductive Event where
  | write (line : OutLine) (level : Level)
  | sample (level : Level)
  | delay
  | result (op : CmdCode) (valid : Bool) (data : ResData)
  deriving DecidableEq, Repr

/-- What the host does during one step: nothing, or a request (log 1). -/
inductive HostMove where
  | quiet
  | request (r : Request)
  deriving DecidableEq, Repr

/-- The state of R20. -/
structure State where
  /-- `MODE` (R21). -/
  mode : Mode
  /-- `CS_ID` (R22). -/
  csId : LineId
  /-- `CLK_ID`, present exactly in `MANUAL` mode (R22, D17). -/
  clkId : Option LineId
  /-- `MISO_ID`, present exactly in `MANUAL` mode (R22, D17). -/
  misoId : Option LineId
  /-- `BITORDER`, `SPIMODE`, `CLKDIV`, present exactly in `HARDWARE` mode (R24; log 10). -/
  bus : Option BusConfig
  /-- `CS`: the chip-select line, 0 is asserted (R25). -/
  cs : Level
  /-- `SCK`: the clock line (R26). -/
  sck : Level
  /-- `MOSI`: the outgoing data line, present exactly in `HARDWARE` mode (R27; log 10). -/
  mosi : Option Level
  /-- `ACC`: the manual strategy's accumulator (R29). -/
  acc : BitVec 32
  /-- `RXB`: the byte engine's receive shift register (R30). -/
  rxb : Byte
  /-- `BUF[0]` to `BUF[3]`, index 3 most significant (R30, R52). -/
  buf : Vector Byte 4
  /-- `SEQ` (R31). -/
  seq : Pos
  /-- `BUSY` (R32). -/
  busy : Bool
  /-- `OPR` (R32). -/
  opr : CmdCode
  /-- `FRAME_NO`, ghost (R33). -/
  frameNo : Nat
  /-- `TRACE`, ghost, oldest event first (R33). -/
  trace : List Event
  /-- The model's own: which construction this is, counted from 0 (log 3). -/
  life : Nat
  /-- The model's own: the peer's answers as far as they are written out, element `n` for acquisition `n`, the answer
  to sample `i` standing at bit `31 - i`; beyond the end the free value `Config.sample` answers (R60; log 2). -/
  oracle : List Frame
  /-- The model's own: the host's moves in the steps to come, one a step; beyond the end the host is quiet (log 1). -/
  host : List HostMove
  deriving DecidableEq, Repr

/-- The block raises no exception, takes no trap and has no fault state (R160), so there is no fault: no meaning and no
step raises one. Safe: nothing can be proved from a stop that never happens (log 26). -/
inductive Fault where
  deriving DecidableEq, Repr

/-- Why a step has no next state: always a host that breaks the protocol. -/
inductive Refusal where
  /-- An instruction without a meaning yet; raised only by `exec`'s refused arms, of which there are none. Safe. -/
  | notModelled (mnemonic : String)
  /-- A command presented while another runs (R149, D16, U9: the model refuses it). Raised by the fetch when `START`
  comes with `BUSY = 1`, and by a read command's meaning in a state that runs another command. Safe (log 7). -/
  | commandWhileBusy
  /-- A reset release whose strap comes with a number of identifiers that no construction entry point takes (R74).
  Raised by the fetch. Safe (log 8). -/
  | malformedRequest
  deriving DecidableEq, Repr

/-- The state as the block leaves reset (R37, R146, R147), for a strap `m` and identifiers: chip-select high, clock
low, the working registers zero, at rest, nothing in the trace. `clk` and `miso` are taken in `MANUAL` mode only, the
bus configuration and `MOSI` exist in `HARDWARE` mode only. `OPR` is unspecified (R37): 00 is the model's value (log 4).
The model's own fields stand at their beginnings (log 1, log 2, log 3). -/
def State.constructed (m : Mode) (clk cs miso : LineId) : State where
  mode := m
  csId := cs
  clkId := match m with
    | .manual => some clk
    | .hardware => none
  misoId := match m with
    | .manual => some miso
    | .hardware => none
  bus := match m with
    | .manual => none
    | .hardware => some { bitOrder := .msbFirst, spiMode := .mode0, clkDiv := Config.spiClkDiv }
  cs := true
  sck := false
  mosi := match m with
    | .manual => none
    | .hardware => some false
  acc := 0#32
  rxb := 0#8
  buf := #v[0#8, 0#8, 0#8, 0#8]
  seq := .idle
  busy := false
  opr := 0b00#2
  frameNo := 0
  trace := []
  life := 0
  oracle := []
  host := []

/-- The machine right after its first reset (R37, R180): the construction that the instance's strap and identifiers
select (log 5), before any move of the host. -/
def State.reset : State :=
  State.constructed Config.strap Config.clkId Config.csId Config.misoId

end Sys2Proof.Machine
end

