-- ==== Sys2Proof/Machine/Sequence.lean ====
section
/-!
DEFINITION. The micro-sequences of `40_transport.md` R96 to R108 as data: the micro-operation at each position, the
successor of each position (R31), the two fixed lists of positions, and the events that a whole acquisition appends.
-/

namespace Sys2Proof.Machine

/-- The five micro-operations (`40_transport.md` section 2): one step of the sequencer each. A sampling one carries the
index `i` of the sample it returns. -/
inductive MicroOp where
  | drive (line : OutLine) (level : Level)
  | settle
  | shiftSample (i : Fin 32)
  | riseSample (i : Fin 32)
  | fall (k : Fin 4) (j : Fin 8)
  deriving DecidableEq, Repr

/-- The sample index of slot `j` of byte `k`: `8k + j` (R52, R106). -/
def sampleIndex (k : Fin 4) (j : Fin 8) : Fin 32 :=
  ⟨8 * k.val + j.val, by omega⟩

/-- The micro-operation at a position (R96, R97, R98, R103, R106, R107). `IDLE` has none, and `DEC` is the decode step
of R141, which is the running command's own. -/
def Pos.op : Pos → Option MicroOp
  | .idle => none
  | .m1a => some (.drive .sck false)
  | .m1b => some .settle
  | .m1c => some (.drive .cs false)
  | .m1d => some .settle
  | .m2a _ => some (.drive .sck false)
  | .m2b _ => some .settle
  | .m2c i => some (.shiftSample i)
  | .m2d _ => some (.drive .sck true)
  | .m2e _ => some .settle
  | .m3 => some (.drive .cs true)
  | .h2a => some (.drive .cs false)
  | .h2b => some .settle
  | .h3r k j => some (.riseSample (sampleIndex k j))
  | .h3f k j => some (.fall k j)
  | .h4 => some (.drive .cs true)
  | .dec => none

/-- The successor of a position (R31): the next in the listed order, the fixed counts 32, 4 and 8 closing the loops;
no branch on data. `IDLE` is left only by the acceptance of a command. -/
def Pos.next : Pos → Pos
  | .idle => .idle
  | .m1a => .m1b
  | .m1b => .m1c
  | .m1c => .m1d
  | .m1d => .m2a 0
  | .m2a i => .m2b i
  | .m2b i => .m2c i
  | .m2c i => .m2d i
  | .m2d i => .m2e i
  | .m2e i => if h : i.val + 1 < 32 then .m2a ⟨i.val + 1, h⟩ else .m3
  | .m3 => .dec
  | .h2a => .h2b
  | .h2b => .h3r 0 0
  | .h3r k j => .h3f k j
  | .h3f k j =>
    if hj : j.val + 1 < 8 then .h3r k ⟨j.val + 1, hj⟩
    else if hk : k.val + 1 < 4 then .h3r ⟨k.val + 1, hk⟩ 0
    else .h4
  | .h4 => .dec
  | .dec => .idle

/-- Where an accepted command begins (R91, R140). -/
def Pos.first : Mode → Pos
  | .manual => .m1a
  | .hardware => .h2a

/-- The manual sequence as a list of positions (R99). -/
def manualSequence : List Pos :=
  [.m1a, .m1b, .m1c, .m1d]
    ++ (List.finRange 32).flatMap (fun i => [.m2a i, .m2b i, .m2c i, .m2d i, .m2e i])
    ++ [.m3]

/-- The hardware sequence as a list of positions (R108). -/
def hardwareSequence : List Pos :=
  [.h2a, .h2b]
    ++ (List.finRange 4).flatMap (fun k => (List.finRange 8).flatMap (fun j => [.h3r k j, .h3f k j]))
    ++ [.h4]

/-- The sequence of an instance (R91). -/
def sequenceOf : Mode → List Pos
  | .manual => manualSequence
  | .hardware => hardwareSequence

/-- Sample `s_i` of a frame: bit `31 - i` (R51). -/
def sampleOf (v : Frame) (i : Fin 32) : Level :=
  v.getLsbD (31 - i.val)

/-- The frame that samples make (R51): the sum of `s_i * 2^(31 - i)`. -/
def frameValue (f : Fin 32 → Level) : Frame :=
  BitVec.ofNat 32 ((List.finRange 32).map (fun i => (f i).toNat * 2 ^ (31 - i.val))).sum

/-- The events of one manual acquisition of the frame `v` (R99). -/
def manualEvents (v : Frame) : List Event :=
  [.write .sck false, .delay, .write .cs false, .delay]
    ++ (List.finRange 32).flatMap (fun i =>
        [.write .sck false, .delay, .sample (sampleOf v i), .write .sck true, .delay])
    ++ [.write .cs true]

/-- The events of one hardware acquisition of the frame `v` (R108). -/
def hardwareEvents (v : Frame) : List Event :=
  [.write .cs false, .delay]
    ++ (List.finRange 32).flatMap (fun i =>
        [.write .sck true, .sample (sampleOf v i), .write .sck false])
    ++ [.write .cs true]

/-- The events of one acquisition of the frame `v` by an instance (R91). -/
def eventsOf (m : Mode) (v : Frame) : List Event :=
  match m with
  | .manual => manualEvents v
  | .hardware => hardwareEvents v

/-- How many sequencer steps are left, from a position to rest (R112, R141): 166 from `M1a`, 68 from `H2a`. -/
def Pos.stepsLeft : Pos → Nat
  | .idle => 0
  | .m1a => 166
  | .m1b => 165
  | .m1c => 164
  | .m1d => 163
  | .m2a i => 5 * (32 - i.val) + 2
  | .m2b i => 5 * (32 - i.val) + 1
  | .m2c i => 5 * (32 - i.val)
  | .m2d i => 5 * (32 - i.val) - 1
  | .m2e i => 5 * (32 - i.val) - 2
  | .m3 => 2
  | .h2a => 68
  | .h2b => 67
  | .h3r k j => 2 * (32 - (8 * k.val + j.val)) + 2
  | .h3f k j => 2 * (32 - (8 * k.val + j.val)) + 1
  | .h4 => 2
  | .dec => 1

/-- How many sequencer steps an operation takes after its acceptance (R141): 166 in `MANUAL` mode, 68 in `HARDWARE`. -/
def operationSteps : Mode → Nat
  | .manual => 166
  | .hardware => 68

end Sys2Proof.Machine
end

