-- ==== Sys2Proof/Machine/Operands.lean ====
section
/-!
DEFINITION. Field extraction (`30_encoding.md` R70, R71): the only ways the decoder reads a frame, and the integer
counts that the fields stand for.
-/

namespace Sys2Proof.Machine

/-- `fault(v) = v[2:0]` (R71). -/
def faultField (v : Frame) : BitVec 3 :=
  v.extractLsb' 0 3

/-- `PROBE = v[31:18]`, 14 bits, the sign at bit 31 (R70). -/
def probeField (v : Frame) : BitVec 14 :=
  v.extractLsb' 18 14

/-- `INT_MAG = v[14:4]`, 11 bits, unsigned (R70, R71). -/
def magField (v : Frame) : BitVec 11 :=
  v.extractLsb' 4 11

/-- `INT_SIGN = v[15]` (R70, R71). -/
def negField (v : Frame) : Bool :=
  v.getLsbD 15

/-- `q(v) = sext_14(v[31:18])`, in -8192..8191 (R71, R124). -/
def probeCount (v : Frame) : Int :=
  (probeField v).toInt

/-- `r(v)`: the magnitude, negated when the sign bit is set: sign and magnitude, not two's complement (R126). -/
def internalCount (v : Frame) : Int :=
  if negField v then -((magField v).toNat : Int) else ((magField v).toNat : Int)

/-- `F20(v) = 9 * q(v) + 640`, the Fahrenheit count of 1/20 degree (R125). -/
def fahrenheitCount (v : Frame) : Int :=
  9 * probeCount v + 640

end Sys2Proof.Machine
end

