-- ==== Sys2Proof/Machine/Flags.lean ====
section
/-!
DEFINITION. The fault bits and the validity gate. The block has no flag that persists (R35): these are outputs of the
decode of one frame, produced and consumed within one operation.
-/

namespace Sys2Proof.Machine

/-- `faultCode(v) = v[2:0]` (R121). -/
def faultCode (v : Frame) : BitVec 3 :=
  faultField v

/-- Bit 0 of the code: open-circuit fault (R122). -/
def openCircuit (v : Frame) : Bool :=
  (faultCode v).getLsbD 0

/-- Bit 1 of the code: short-to-ground fault (R122). -/
def shortToGround (v : Frame) : Bool :=
  (faultCode v).getLsbD 1

/-- Bit 2 of the code: short-to-supply fault (R122). -/
def shortToSupply (v : Frame) : Bool :=
  (faultCode v).getLsbD 2

/-- Any nonzero code signals a fault condition (R122); it gates the probe reads and nothing else (R128). -/
def faulted (v : Frame) : Bool :=
  faultCode v != 0#3

end Sys2Proof.Machine
end

