-- ==== Sys2Proof/Machine/Decoder.lean ====
section
/-!
DEFINITION. The frame decoder (`41_decoder.md`) as pure functions of one frame, in exact rationals (R130), and the
packing of a reading into the result format (`30_encoding.md` R75).
-/

namespace Sys2Proof.Machine

/-- A `Reading` (R130): `Invalid`, or an exact temperature. -/
inductive Reading where
  | invalid
  | value (x : ℚ)
  deriving DecidableEq

/-- `probeCelsius(v)` (R123): gated by the fault bits, 1/4 degree a count. -/
def probeCelsius (v : Frame) : Reading :=
  if faulted v then .invalid else .value ((probeCount v : ℚ) * (1 / 4))

/-- `probeFahrenheit(v)` (R125): from Celsius by exact rational arithmetic, `Invalid` propagating. -/
def probeFahrenheit (v : Frame) : Reading :=
  match probeCelsius v with
  | .invalid => .invalid
  | .value c => .value (c * (9 / 5) + 32)

/-- `internalCelsius(v)` (R126, R127): never invalid, 1/16 degree a count. -/
def internalCelsius (v : Frame) : Reading :=
  .value ((internalCount v : ℚ) * (1 / 16))

/-- A result as the host gets it (R75): `RES_VALID` and `RES_DATA[17:0]`. -/
structure Result where
  valid : Bool
  data : ResData
  deriving DecidableEq, Repr

/-- The encoding of the sentinel (R75, D4): `RES_VALID = 0`, `RES_DATA = 0`. -/
def Result.sentinel : Result :=
  { valid := false, data := 0#18 }

/-- A valid result of `n` counts (R75). -/
def Result.count (n : Int) : Result :=
  { valid := true, data := BitVec.ofInt 18 n }

/-- The decode of `READ_INTERNAL` (R142): always valid, the count of 1/16 degree. -/
def resultInternal (v : Frame) : Result :=
  Result.count (internalCount v)

/-- The decode of `READ_CELSIUS` (R143): the count of 1/4 degree, or the sentinel. -/
def resultCelsius (v : Frame) : Result :=
  match probeCelsius v with
  | .invalid => Result.sentinel
  | .value _ => Result.count (probeCount v)

/-- The decode of `READ_FAHRENHEIT` (R144): the count of 1/20 degree Fahrenheit, or the sentinel. -/
def resultFahrenheit (v : Frame) : Result :=
  match probeFahrenheit v with
  | .invalid => Result.sentinel
  | .value _ => Result.count (fahrenheitCount v)

/-- The decode of `READ_ERROR` (R145): always valid, the fault code. -/
def resultError (v : Frame) : Result :=
  { valid := true, data := (faultCode v).setWidth 18 }

/-- `decode_OPR(v)` of R141: the result that the command with code `c` makes of its frame, by the opcode map of R73. -/
def resultFor (c : CmdCode) (v : Frame) : Result :=
  match c.toNat with
  | 0 => resultInternal v
  | 1 => resultCelsius v
  | 2 => resultFahrenheit v
  | _ => resultError v

end Sys2Proof.Machine
end

