-- ==== Sys2Proof/Machine/Ops.lean ====
section
/-!
DEFINITION. The named operations over the state: the primitives of `00_scope.md` section 6, the micro-operations of
`40_transport.md` section 2, one step of the sequencer, the acceptance of a command, its delivery, and construction.
There is no exception to take and none to return from (R160, R166, R167).
-/

namespace Sys2Proof.Machine

/-- An event is appended to the trace (R33). -/
def State.log (s : State) (e : Event) : State :=
  { s with trace := s.trace ++ [e] }

/-- `LineWrite(L, b)`: the line becomes `b`, event `W(L,b)`. A line that the instance does not have (`MOSI` in `MANUAL`
mode, R27) has no level to set. -/
def lineWrite (l : OutLine) (b : Level) (s : State) : State :=
  match l with
  | .cs => { s with cs := b, trace := s.trace ++ [.write .cs b] }
  | .sck => { s with sck := b, trace := s.trace ++ [.write .sck b] }
  | .mosi => { s with mosi := s.mosi.map (fun _ => b), trace := s.trace ++ [.write .mosi b] }

/-- `Delay()`: event `D`, nothing else (R93). -/
def delay (s : State) : State :=
  s.log .delay

/-- The oracle `s(n, i)` (R60): what is written out, else the free value. -/
def State.sampleAt (s : State) (n : Nat) (i : Fin 32) : Level :=
  match s.oracle[n]? with
  | some v => sampleOf v i
  | none => Config.sample s.life n i

/-- The frame that the samples of acquisition `n` make (R51, R90). -/
def State.frameAt (s : State) (n : Nat) : Frame :=
  frameValue (s.sampleAt n)

/-- Sample `i` of the acquisition in progress. Its number is `FRAME_NO` before the increment of its first step (R33). -/
def State.sample (s : State) (i : Fin 32) : Level :=
  s.sampleAt (s.frameNo - 1) i

/-- `LineRead(MISO)` for sample `i`: the oracle's answer, event `S(b)` (R28, R60). -/
def lineRead (i : Fin 32) (s : State) : Level × State :=
  (s.sample i, s.log (.sample (s.sample i)))

/-- `Emit(op, valid, data)`: event `RESULT(op, valid, data)` (R141). -/
def emit (op : CmdCode) (r : Result) (s : State) : State :=
  s.log (.result op r.valid r.data)

/-- `DRIVE(L, b)` (R92). -/
def driveLine (l : OutLine) (b : Level) (s : State) : State :=
  lineWrite l b s

/-- `SETTLE` (R93). -/
def settleDelay (s : State) : State :=
  delay s

/-- `SHIFT_SAMPLE` (R94): the sample is taken, `ACC` is shifted left on 32 bits, the sample enters at bit 0. -/
def shiftSample (i : Fin 32) (s : State) : State :=
  let r := lineRead i s
  { r.2 with acc := (r.2.acc <<< 1) ||| (BitVec.ofBool r.1).setWidth 32 }

/-- `RISE_SAMPLE` (R95): the clock rises, the sample is taken at the rise, `RXB` is shifted left on 8 bits, the sample
enters at bit 0. -/
def riseSample (i : Fin 32) (s : State) : State :=
  let r := lineRead i (lineWrite .sck true s)
  { r.2 with rxb := (r.2.rxb <<< 1) ||| (BitVec.ofBool r.1).setWidth 8 }

/-- Byte `B_k` is placed at `BUF[3 - k]` (R105, R52). -/
def placeByte (k : Fin 4) (s : State) : State :=
  { s with buf := s.buf.set (3 - k.val) s.rxb (by omega) }

/-- `FALL(k, j)` (R105): the clock falls; after the eighth slot the byte is complete and is placed. -/
def fall (k : Fin 4) (j : Fin 8) (s : State) : State :=
  if j = 7 then placeByte k (lineWrite .sck false s) else lineWrite .sck false s

/-- A micro-operation's effect. -/
def MicroOp.perform : MicroOp → State → State
  | .drive l b, s => driveLine l b s
  | .settle, s => settleDelay s
  | .shiftSample i, s => Machine.shiftSample i s
  | .riseSample i, s => Machine.riseSample i s
  | .fall k j, s => Machine.fall k j s

/-- What the first step of an acquisition also does (R90, R96, R103): the ghost counter advances, and the manual
strategy clears `ACC` (R29, D10). -/
def openAcquisition (p : Pos) (s : State) : State :=
  match p with
  | .m1a => { s with frameNo := s.frameNo + 1, acc := 0#32 }
  | .h2a => { s with frameNo := s.frameNo + 1 }
  | _ => s

/-- One step of the sequencer in an acquisition (R31): the micro-operation at `SEQ`, then the successor. Where there is
no micro-operation nothing happens (log 14). -/
def sequencerStep (s : State) : State :=
  match s.seq.op with
  | none => s
  | some o => { o.perform (openAcquisition s.seq s) with seq := s.seq.next }

/-- The frame in the receive buffer, by explicit shifts (R53, R107, C1). -/
def bufferFrame (b : Vector Byte 4) : Frame :=
  ((b[3].setWidth 32) <<< 24) ||| ((b[2].setWidth 32) <<< 16) ||| ((b[1].setWidth 32) <<< 8) ||| (b[0].setWidth 32)

/-- What `acquireFrame()` returns (R100, R107): the strategy's holding register. -/
def State.acquired (s : State) : Frame :=
  match s.mode with
  | .manual => s.acc
  | .hardware => bufferFrame s.buf

/-- The acceptance of a command (R140): no event, no line moves. -/
def accept (c : CmdCode) (s : State) : State :=
  { s with opr := c, busy := true, seq := Pos.first s.mode }

/-- The rest of the step `DEC` once the frame is decoded (R141): the result, then rest. -/
def deliver (r : Result) (s : State) : State :=
  { emit s.opr r s with busy := false, seq := .idle }

/-- One step of the read command with code `c` and decode `result` (R140, R141): accepted at rest; while it runs, the
step at `SEQ`; at `DEC`, the decode of the acquired frame and the result. While another command runs it is refused
(R149). -/
def readCommand (c : CmdCode) (result : Frame → Result) (s : State) : Host.Outcome State Fault Refusal :=
  if s.busy then
    if s.opr = c then
      if s.seq = .dec then .next (deliver (result s.acquired) s) else .next (sequencerStep s)
    else .refused .commandWhileBusy
  else .next (accept c s)

/-- A construction (R146, R147, R180, R182): whatever the block was doing, it holds its reset values. A new life
begins: the answers already used are dropped from what is written out (log 2, log 3), and the host goes on (log 1). -/
def construct (m : Mode) (clk cs miso : LineId) (s : State) : State :=
  { State.constructed m clk cs miso with
    life := s.life + 1
    oracle := s.oracle.drop s.frameNo
    host := s.host }

end Sys2Proof.Machine
end

