-- ==== Sys2Proof/Machine/Construct.lean ====
section
/-!
DEFINITION. The two construction entry points (`42_commands.md` R146, R147), which are the two ways of leaving reset
(R180), possible at any position of the sequencer (R182).
-/

namespace Sys2Proof.Machine

/-- `CONSTRUCT_MANUAL`, strap 0: clock, chip-select and data-in identifiers (R146). Nothing is validated (D22). -/
def execConstructManual (clk cs miso : LineId) (s : State) : Host.Outcome State Fault Refusal :=
  .next (construct .manual clk cs miso s)

/-- `CONSTRUCT_HW`, strap 1: the chip-select identifier; the clock and data-in identifiers are absent, so what stands
in their places is not taken (R147). -/
def execConstructHw (cs : LineId) (s : State) : Host.Outcome State Fault Refusal :=
  .next (construct .hardware cs cs cs s)

end Sys2Proof.Machine
end

