-- ==== Sys2Proof/Machine/Read.lean ====
section
/-!
DEFINITION. The four read commands (`42_commands.md` R142 to R145). An operation is a fixed sequence of steps (R8); a
meaning is ONE step of it: acceptance, then the 165 or 67 steps of the acquisition, then `DEC` (R141; log 6).
-/

namespace Sys2Proof.Machine

/-- `READ_INTERNAL`, `CMD = 00` (R142). -/
def execReadInternal (s : State) : Host.Outcome State Fault Refusal :=
  readCommand 0b00#2 resultInternal s

/-- `READ_CELSIUS`, `CMD = 01` (R143). -/
def execReadCelsius (s : State) : Host.Outcome State Fault Refusal :=
  readCommand 0b01#2 resultCelsius s

/-- `READ_FAHRENHEIT`, `CMD = 10` (R144). -/
def execReadFahrenheit (s : State) : Host.Outcome State Fault Refusal :=
  readCommand 0b10#2 resultFahrenheit s

/-- `READ_ERROR`, `CMD = 11` (R145). -/
def execReadError (s : State) : Host.Outcome State Fault Refusal :=
  readCommand 0b11#2 resultError s

end Sys2Proof.Machine
end

