-- ==== Sys2Proof/Machine/Fetch.lean ====
section
/-!
DEFINITION. What the next step runs. The block fetches no instruction from a memory (R64): its commands arrive on the
command port, its construction by the strap, and between them the running command goes on.
-/

namespace Sys2Proof.Machine

/-- What a step finds to do. -/
inductive Fetched where
  /-- One step of instruction `i`, from state `s`. -/
  | run (i : Instr) (s : State)
  /-- At rest, and the host asks nothing: the block waits (R181). -/
  | wait (s : State)
  /-- The host broke the protocol. -/
  | reject (r : Refusal)
  deriving DecidableEq, Repr

/-- The host is quiet: the running command, named by `OPR`, goes on; at rest the block waits. -/
def carryOn (s : State) : Fetched :=
  if s.busy then .run (decodeCommand s.opr) s else .wait s

/-- The host presents a request: a command needs `BUSY = 0` (R140, R149), a release of reset can come at any time
(R182). -/
def present (r : Request) (s : State) : Fetched :=
  match decode r with
  | .error _ => .reject .malformedRequest
  | .ok i => if i.isCommand && s.busy then .reject .commandWhileBusy else .run i s

/-- The host's move for this step is taken off its list, then looked at (log 1). -/
def fetch (s : State) : Fetched :=
  match s.host with
  | [] => carryOn s
  | .quiet :: rest => carryOn { s with host := rest }
  | .request r :: rest => present r { s with host := rest }

/-- `s` with a request as the host's very next move. -/
def State.presenting (s : State) (r : Request) : State :=
  { s with host := .request r :: s.host }

end Sys2Proof.Machine
end

