-- ==== Sys2Proof/Machine/Dispatch.lean ====
section
/-!
DEFINITION. One arm per operation of `spec/opcode_table.json`.
-/

namespace Sys2Proof.Machine

def exec (i : Instr) (s : State) : Host.Outcome State Fault Refusal :=
  match i with
  | .readInternal => Sys2Proof.Machine.execReadInternal s
  | .readCelsius => Sys2Proof.Machine.execReadCelsius s
  | .readFahrenheit => Sys2Proof.Machine.execReadFahrenheit s
  | .readError => Sys2Proof.Machine.execReadError s
  | .constructManual clk cs miso => Sys2Proof.Machine.execConstructManual clk cs miso s
  | .constructHw cs => Sys2Proof.Machine.execConstructHw cs s

end Sys2Proof.Machine
end

