-- ==== Sys2Proof/Machine/Step.lean ====
section
/-!
DEFINITION. One step of the machine: take the host's move, then run one step of the instruction it leaves to run (R8,
R31, R140). And the host's probe, which presents one word of the opcode table as the very next request.
-/

namespace Sys2Proof.Machine

/-- One step (R8). -/
def step (s : State) : Host.Outcome State Fault Refusal :=
  match fetch s with
  | .run i s' => exec i s'
  | .wait s' => .next s'
  | .reject r => .refused r

/-- `s` with the operation that a word of the opcode table stands for presented as the host's very next move (log 13);
a word that is none leaves `s` as it is. -/
def State.withFetchWord (s : State) (nbits w : Nat) : State :=
  match requestOfTableWord nbits w with
  | some r => s.presenting r
  | none => s

end Sys2Proof.Machine
end

