-- ==== Sys2Proof/Machine/Peer.lean ====
section
/-!
DEFINITION. The reference peer of `20_memory.md` section 6 (G1). PRESUMED: the spec supplies it from general knowledge
and lets no rule depend on it (log 23). No instruction and no step uses it: the peer of the machine is the free oracle
of R60. A claim that uses it is a claim about this reference peer.
-/

namespace Sys2Proof.Machine

/-- The reference peer: the word it offers, its shift register, and the levels it last saw on the two lines. -/
structure Peer where
  word : Frame
  shift : Frame
  cs : Level
  sck : Level
  deriving DecidableEq, Repr

/-- What the peer does on an event of the lines: it loads its shift register on the falling edge of chip-select, and
shifts left by one on a falling edge of the clock while selected. -/
def Peer.see (p : Peer) : Event → Peer
  | .write .cs b => if p.cs && !b then { p with cs := b, shift := p.word } else { p with cs := b }
  | .write .sck b => if p.sck && !b && !p.cs then { p with sck := b, shift := p.shift <<< 1 } else { p with sck := b }
  | .write .mosi _ => p
  | .sample _ => p
  | .delay => p
  | .result _ _ _ => p

/-- The bit the peer presents: the top bit of its shift register while selected, nothing otherwise. -/
def Peer.presents (p : Peer) : Option Level :=
  if p.cs then none else some (p.shift.getLsbD 31)

/-- Whether every sample of a trace is the bit that the peer presents at that moment. -/
def Peer.answers : Peer → List Event → Bool
  | _, [] => true
  | p, .sample b :: es => p.presents == some b && p.answers es
  | p, e :: es => (p.see e).answers es

end Sys2Proof.Machine
end

