-- ==== Sys2Proof/Safety.lean ====
section
/-!
DEFINITION. What claims speak of: the invariants of a run (configuration, control and lines, the samples held, the
accounts of the trace) and the host that keeps the protocol of `42_commands.md` R150.
-/

namespace Sys2Proof.Machine

/-- The positions an instance of a mode uses (R31, R91). -/
def Pos.inMode (m : Mode) : Pos → Bool
  | .idle | .dec => true
  | .m1a | .m1b | .m1c | .m1d | .m2a _ | .m2b _ | .m2c _ | .m2d _ | .m2e _ | .m3 => m = .manual
  | .h2a | .h2b | .h3r _ _ | .h3f _ _ | .h4 => m = .hardware

/-- Whether the acquisition of the running command has made its first step, the one that advances `FRAME_NO`. -/
def Pos.started : Pos → Bool
  | .idle | .m1a | .h2a => false
  | .m1b | .m1c | .m1d | .m2a _ | .m2b _ | .m2c _ | .m2d _ | .m2e _ | .m3 => true
  | .h2b | .h3r _ _ | .h3f _ _ | .h4 | .dec => true

/-- The level of `CS` before the step at a position (R25): low from the step that asserts it to the step that
deasserts it. -/
def Pos.csLevel : Pos → Level
  | .idle | .dec | .m1a | .m1b | .m1c | .h2a => true
  | .m1d | .m2a _ | .m2b _ | .m2c _ | .m2d _ | .m2e _ | .m3 => false
  | .h2b | .h3r _ _ | .h3f _ _ | .h4 => false

/-- The level of `SCK` before the step at a position (R26, R96, R97, R101, R106, R109): `used` says that an earlier
acquisition of this life has left the manual clock high. -/
def Pos.sckLevel (m : Mode) (used : Bool) : Pos → Level
  | .idle | .m1a => m = .manual && used
  | .dec => m = .manual
  | .m1b | .m1c | .m1d | .m2b _ | .m2c _ | .m2d _ => false
  | .m2a i => i ≠ 0
  | .m2e _ | .m3 => true
  | .h2a | .h2b | .h3r _ _ | .h4 => false
  | .h3f _ _ => true

/-- How many samples of the acquisition in progress have been taken before the step at a position. -/
def Pos.taken : Pos → Nat
  | .idle | .m1a | .m1b | .m1c | .m1d | .h2a | .h2b => 0
  | .m2a i | .m2b i | .m2c i => i.val
  | .m2d i | .m2e i => i.val + 1
  | .h3r k j => 8 * k.val + j.val
  | .h3f k j => 8 * k.val + j.val + 1
  | .m3 | .h4 | .dec => 32

/-- How many of them are bits of the byte that `RXB` holds. -/
def Pos.inByte : Pos → Nat
  | .h3r _ j => j.val
  | .h3f _ j => j.val + 1
  | .h4 | .dec => 8
  | .idle | .m1a | .m1b | .m1c | .m1d | .h2a | .h2b => 0
  | .m2a _ | .m2b _ | .m2c _ | .m2d _ | .m2e _ | .m3 => 0

/-- How many bytes of it stand in `BUF`. -/
def Pos.placed : Pos → Nat
  | .h3r k _ | .h3f k _ => k.val
  | .h4 | .dec => 4
  | .idle | .m1a | .m1b | .m1c | .m1d | .h2a | .h2b => 0
  | .m2a _ | .m2b _ | .m2c _ | .m2d _ | .m2e _ | .m3 => 0

/-- The configuration of a constructed instance (R22, R24, R27, D17): the clock and data-in identifiers exactly in
`MANUAL` mode; the bus configuration, and `MOSI` at level 0, exactly in `HARDWARE` mode. -/
structure State.Configured (s : State) : Prop where
  clk : s.clkId.isSome = decide (s.mode = .manual)
  miso : s.misoId.isSome = decide (s.mode = .manual)
  bus : s.bus = match s.mode with
    | .manual => none
    | .hardware => some { bitOrder := .msbFirst, spiMode := .mode0, clkDiv := Config.spiClkDiv }
  mosi : s.mosi = match s.mode with
    | .manual => none
    | .hardware => some false

/-- Control and lines: `BUSY` is 1 exactly while `SEQ` is not `IDLE` (R32), the position is one of the mode's (R91),
the lines stand at the levels of their position (R25, R26), and a started acquisition has been counted (R33). -/
structure State.Controlled (s : State) : Prop where
  busy : s.busy = decide (s.seq ≠ .idle)
  inMode : s.seq.inMode s.mode = true
  cs : s.cs = s.seq.csLevel
  sck : s.sck = s.seq.sckLevel s.mode (decide (s.frameNo ≠ 0))
  counted : s.seq.started = true → 0 < s.frameNo

/-- The frame of the acquisition in progress: what its 32 samples make, those still to come among them. -/
def State.frameNow (s : State) : Frame :=
  s.frameAt (s.frameNo - 1)

/-- The samples held (R94, R95, R100, R105, R109): in `MANUAL` mode `ACC` is the frame's first `taken` bits; in
`HARDWARE` mode `RXB` ends in the last `inByte` of them and every complete byte stands in its place in `BUF`. -/
structure State.HoldsSamples (s : State) : Prop where
  acc : s.mode = .manual → s.seq.started = true → s.acc = s.frameNow >>> (32 - s.seq.taken)
  rxb : s.mode = .hardware → s.seq.started = true → ∀ t, t < s.seq.inByte →
    s.rxb.getLsbD t = s.frameNow.getLsbD (32 - s.seq.taken + t)
  buf : s.mode = .hardware → s.seq.started = true → ∀ k : Fin 4, k.val < s.seq.placed →
    s.buf[3 - k.val] = s.frameNow.extractLsb' (24 - 8 * k.val) 8

/-- Whether an event is a result. -/
def Event.isResult : Event → Bool
  | .result _ _ _ => true
  | .write _ _ | .sample _ | .delay => false

/-- Whether an event is a sample. -/
def Event.isSample : Event → Bool
  | .sample _ => true
  | .write _ _ | .result _ _ _ | .delay => false

/-- Whether an event is a write of the outgoing data line. -/
def Event.isMosiWrite : Event → Bool
  | .write .mosi _ => true
  | .write .cs _ | .write .sck _ | .sample _ | .result _ _ _ | .delay => false

/-- The accounts of the trace (R27, R55, R141): one acquisition for each result and one for the operation under way,
32 samples for each result and those of the operation under way, and no write of `MOSI`. -/
structure State.Accounted (s : State) : Prop where
  acquisitions : s.frameNo = s.trace.countP Event.isResult + s.seq.started.toNat
  samples : s.trace.countP Event.isSample = 32 * s.trace.countP Event.isResult + s.seq.taken
  mosi : s.trace.countP Event.isMosiWrite = 0

/-- A host that keeps the protocol of R150 from here on, seen from an instance of mode `m` that has `n` steps left in
its operation: it presents a command only at rest, constructs only by an entry point that exists, and wires correctly
(U11). It may reset at any time. -/
def hostServes (m : Mode) (n : Nat) : List HostMove → Bool
  | [] => true
  | .quiet :: rest => hostServes m (n - 1) rest
  | .request (.command _) :: rest => n == 0 && hostServes m (operationSteps m) rest
  | .request (.strap l ids) :: rest =>
    match decodeStrap l ids with
    | .ok (.constructManual clk cs miso) => (Instr.constructManual clk cs miso).wellFormed && hostServes .manual 0 rest
    | .ok (.constructHw cs) => (Instr.constructHw cs).wellFormed && hostServes .hardware 0 rest
    | .ok .readInternal | .ok .readCelsius | .ok .readFahrenheit | .ok .readError => false
    | .error _ => false

/-- The host of `s` keeps the protocol. -/
def State.served (s : State) : Bool :=
  hostServes s.mode s.seq.stepsLeft s.host

/-- The host is quiet in the next `n` steps of a list of moves (beyond the end of the list it is quiet: log 1). -/
def quietFor (n : Nat) (h : List HostMove) : Prop :=
  ∀ k, k < n → h.getD k .quiet = .quiet

/-- A run of the machine: `n` steps, as the host's interface runs it. -/
abbrev run (n : Nat) (s : State) : Host.Outcome State Fault Refusal :=
  Host.Core.run Sys2Proof.core n s

end Sys2Proof.Machine
end

