-- ==== Sys2Proof/Certificates/Slice0/Obligations.lean ====
section
/-!
DEFINITION. The statements for the provers, from the numbered rules of `spec/`. `Sys2Proof.Machine.run n` is `n` steps of
the machine. A statement about the peer's answers holds for all of them: they are written out in `State.oracle` or
the free value `Config.sample`, and every statement is over every state.
-/

open Sys2Proof Sys2Proof.Machine

/-! ### Encoding -/

/-- R73: the opcode map of the command port. -/
def Obligations.CommandCodesDecodeAsTheOpcodeMap : Prop :=
  decode (.command 0b00#2) = .ok .readInternal ∧
  decode (.command 0b01#2) = .ok .readCelsius ∧
  decode (.command 0b10#2) = .ok .readFahrenheit ∧
  decode (.command 0b11#2) = .ok .readError

/-- `30_encoding.md` section 2 (the strap, format `K`): level 0 is the manual entry point with clock, chip-select and
data-in, level 1 the hardware one with chip-select. -/
def Obligations.StrapLevelsDecodeAsTheConstructions : Prop :=
  ∀ clk cs miso : LineId,
    decode (.strap 0#1 [clk, cs, miso]) = .ok (.constructManual clk cs miso) ∧
    decode (.strap 1#1 [cs]) = .ok (.constructHw cs)

/-- Words of `opcode_table.json`, each written out from its row. The identifiers beside a strap word are the instance's
own (log 12: the model's choice). -/
def Obligations.TableWordsDecodeToTheirRows : Prop :=
  decodeTableWord 2 0b00 = some .readInternal ∧
  decodeTableWord 2 0b01 = some .readCelsius ∧
  decodeTableWord 2 0b10 = some .readFahrenheit ∧
  decodeTableWord 2 0b11 = some .readError ∧
  decodeTableWord 1 0b0 = some (.constructManual Config.clkId Config.csId Config.misoId) ∧
  decodeTableWord 1 0b1 = some (.constructHw Config.csId)

/-- Decoding is exactly the inverse of encoding: an operation is decoded from its own request, with every operand at
every value, and from no other. -/
def Obligations.DecodeIsTheInverseOfEncode : Prop :=
  ∀ (r : Request) (i : Instr), decode r = .ok i ↔ r = encode i

/-- Decode and encode agree down to the bytes on a port, for every operation, every list of bytes and every list of
identifiers: the presentations that decode to `i` are exactly the one byte of `i` on its port, with its identifiers. -/
def Obligations.BytesDecodeExactlyToWhatTheyEncode : Prop :=
  ∀ (p : Port) (bytes : List Byte) (ids : List LineId) (i : Instr),
    decodeBytes p bytes ids = .ok i ↔
      (encode i).port = p ∧ bytes = [(encode i).byte] ∧ (p = .strap → ids = (encode i).ids)

/-- `30_encoding.md` sections 2 and 4 give a command 2 bits and a strap 1 bit and no other form; that the model refuses
any other presentation under these names is its own choice (log 12). -/
def Obligations.OtherPresentationsAreRefusedByName : Prop :=
  ∀ (p : Port) (b b' : Byte) (bs : List Byte) (ids : List LineId),
    decodeBytes p [] ids = .error .noByte ∧
    decodeBytes p (b :: b' :: bs) ids = .error .extraBytes ∧
    (4 ≤ b.toNat → decodeBytes .command [b] ids = .error .outsidePort) ∧
    (2 ≤ b.toNat → decodeBytes .strap [b] ids = .error .outsidePort)

/-! ### The decoder -/

/-- R121: `faultCode(v) = v & 0x7`, range 0 to 7, and no other bit of `v` influences it. -/
def Obligations.FaultCodeIsTheLowThreeBits : Prop :=
  ∀ v : Frame,
    faultCode v = (v &&& 0x7#32).setWidth 3 ∧ (faultCode v).toNat = v.toNat % 8 ∧ (faultCode v).toNat ≤ 7 ∧
    ∀ w : Frame, w &&& 0x7#32 = v &&& 0x7#32 → faultCode w = faultCode v

/-- R122: bit 0 open-circuit, bit 1 short-to-ground, bit 2 short-to-supply, independent, and any nonzero code is a fault
condition. -/
def Obligations.FaultBitsHaveTheirMeanings : Prop :=
  ∀ v : Frame,
    openCircuit v = v.getLsbD 0 ∧ shortToGround v = v.getLsbD 1 ∧ shortToSupply v = v.getLsbD 2 ∧
    (faultCode v).toNat =
      4 * (shortToSupply v).toNat + 2 * (shortToGround v).toNat + (openCircuit v).toNat ∧
    (faulted v = true ↔ (faultCode v).toNat ≠ 0)

/-- R123: invalid when `v & 0x7 != 0`, else a quarter of the 14-bit two's complement number whose sign is bit 31; the
range; and bits 17 to 3 play no part. -/
def Obligations.ProbeCelsiusIsGatedAndScaled : Prop :=
  ∀ v : Frame,
    (v &&& 0x7#32 ≠ 0#32 → probeCelsius v = .invalid) ∧
    (v &&& 0x7#32 = 0#32 → probeCelsius v =
      .value (((v >>> 18).toNat - (if v.getLsbD 31 then 16384 else 0) : ℚ) / 4)) ∧
    -8192 ≤ probeCount v ∧ probeCount v ≤ 8191 ∧
    ∀ w : Frame, w >>> 18 = v >>> 18 → w &&& 0x7#32 = v &&& 0x7#32 → probeCelsius w = probeCelsius v

/-- R124: `sext_14(v[31:18])`, "subtract 16384 if `v[31] = 1`", the arithmetic shift of the two's complement reading, and
the logical shift followed by `signExtend14` are the same integer for every `v`. -/
def Obligations.ProbeSignFormulationsAgree : Prop :=
  ∀ v : Frame,
    probeCount v = ((v >>> 18).toNat : ℤ) - (if v.getLsbD 31 then 16384 else 0) ∧
    probeCount v = v.toInt / 2 ^ 18 ∧
    probeCount v = (v.sshiftRight 18).toInt ∧
    probeCount v = ((v >>> 18).setWidth 14).toInt

/-- `41_decoder.md` section 3: `F = C * 9/5 + 32` in exact arithmetic, `Invalid` propagating; the count form and its range
are the spec's own derivation. -/
def Obligations.ProbeFahrenheitIsNineFifthsPlusThirtyTwo : Prop :=
  ∀ v : Frame,
    (probeFahrenheit v = .invalid ↔ probeCelsius v = .invalid) ∧
    (∀ c : ℚ, probeCelsius v = .value c → probeFahrenheit v = .value (c * 9 / 5 + 32)) ∧
    (v &&& 0x7#32 = 0#32 → probeFahrenheit v = .value ((9 * (probeCount v : ℚ) + 640) / 20)) ∧
    -73088 ≤ fahrenheitCount v ∧ fahrenheitCount v ≤ 74359

/-- R126: the magnitude `(v >> 4) & 0x7FF` in sixteenths, negated iff bit 11 of `v >> 4` is set; the range; and only
`v[15:4]` plays a part. -/
def Obligations.InternalCelsiusIsSignAndMagnitude : Prop :=
  ∀ v : Frame,
    internalCelsius v = .value
      (if (v >>> 4).getLsbD 11 then -((((v >>> 4) &&& 0x7FF#32).toNat : ℚ) / 16)
        else (((v >>> 4) &&& 0x7FF#32).toNat : ℚ) / 16) ∧
    -2047 ≤ internalCount v ∧ internalCount v ≤ 2047 ∧
    ∀ w : Frame, (w >>> 4) &&& 0xFFF#32 = (v >>> 4) &&& 0xFFF#32 → internalCelsius w = internalCelsius v

/-- R127: the internal-junction reading is a value for every frame, those with fault bits among them. -/
def Obligations.InternalReadingIsNeverInvalid : Prop :=
  ∀ v : Frame, (∃ x : ℚ, internalCelsius v = .value x) ∧ (resultInternal v).valid = true

/-- R132: a zero magnitude is 0, whatever the sign bit, and `RES_DATA` is 0. -/
def Obligations.NegatedZeroIsZero : Prop :=
  ∀ v : Frame, (v >>> 4) &&& 0x7FF#32 = 0#32 →
    internalCelsius v = .value 0 ∧ (resultInternal v).data = 0#18

/-- R77: bits 3, 16 and 17 have no effect on any function or result. -/
def Obligations.UnusedFrameBitsHaveNoEffect : Prop :=
  ∀ v w : Frame, (∀ n, n ≠ 3 → n ≠ 16 → n ≠ 17 → w.getLsbD n = v.getLsbD n) →
    faultCode w = faultCode v ∧ probeCelsius w = probeCelsius v ∧
    probeFahrenheit w = probeFahrenheit v ∧ internalCelsius w = internalCelsius v ∧
    resultInternal w = resultInternal v ∧ resultCelsius w = resultCelsius v ∧
    resultFahrenheit w = resultFahrenheit v ∧ resultError w = resultError v

/-- `41_decoder.md` section 5 (which bits each function reads): frames that agree on a function's bits give its same
result. -/
def Obligations.DecoderReadsOnlyItsFields : Prop :=
  ∀ v w : Frame,
    (w.extractLsb' 0 3 = v.extractLsb' 0 3 → resultError w = resultError v) ∧
    (w.extractLsb' 18 14 = v.extractLsb' 18 14 → w.extractLsb' 0 3 = v.extractLsb' 0 3 →
      resultCelsius w = resultCelsius v ∧ resultFahrenheit w = resultFahrenheit v) ∧
    (w.extractLsb' 4 12 = v.extractLsb' 4 12 → resultInternal w = resultInternal v)

/-- R75: what each operation returns, as validity and as the exact rational `RES_DATA` times the unit; the ranges; 0 when
invalid; and 18 bits hold the Fahrenheit range where 17 do not. -/
def Obligations.ResultsStandForTheReadings : Prop :=
  (∀ v : Frame,
    ((resultInternal v).valid = true ∧
      internalCelsius v = .value (((resultInternal v).data.toInt : ℚ) * (1 / 16)) ∧
      -2047 ≤ (resultInternal v).data.toInt ∧ (resultInternal v).data.toInt ≤ 2047) ∧
    ((resultCelsius v).valid = decide (faultCode v = 0#3) ∧
      (faultCode v = 0#3 → probeCelsius v = .value (((resultCelsius v).data.toInt : ℚ) * (1 / 4)) ∧
        (resultCelsius v).data.toInt = probeCount v) ∧
      (faultCode v ≠ 0#3 → (resultCelsius v).data = 0#18) ∧
      -8192 ≤ (resultCelsius v).data.toInt ∧ (resultCelsius v).data.toInt ≤ 8191) ∧
    ((resultFahrenheit v).valid = decide (faultCode v = 0#3) ∧
      (faultCode v = 0#3 → probeFahrenheit v = .value (((resultFahrenheit v).data.toInt : ℚ) * (1 / 20)) ∧
        (resultFahrenheit v).data.toInt = 9 * probeCount v + 640) ∧
      (faultCode v ≠ 0#3 → (resultFahrenheit v).data = 0#18) ∧
      -73088 ≤ (resultFahrenheit v).data.toInt ∧ (resultFahrenheit v).data.toInt ≤ 74359) ∧
    ((resultError v).valid = true ∧ (resultError v).data.toInt = ((faultCode v).toNat : ℤ) ∧
      (resultError v).data.toNat ≤ 7)) ∧
  (∃ v : Frame, faultCode v = 0#3 ∧ (2 : ℤ) ^ 16 ≤ (resultFahrenheit v).data.toInt)

/-- R161: a fault bit makes both probe reads invalid, and the result does not tell which: it is the same for every
faulted frame. `READ_INTERNAL` and `READ_ERROR` cannot meet the condition. -/
def Obligations.OnlyProbeReadsAreGated : Prop :=
  ∀ v : Frame,
    (v &&& 0x7#32 ≠ 0#32 ↔ (resultCelsius v).valid = false) ∧
    (v &&& 0x7#32 ≠ 0#32 ↔ (resultFahrenheit v).valid = false) ∧
    (resultInternal v).valid = true ∧ (resultError v).valid = true ∧
    ∀ w : Frame, v &&& 0x7#32 ≠ 0#32 → w &&& 0x7#32 ≠ 0#32 →
      resultCelsius w = resultCelsius v ∧ resultFahrenheit w = resultFahrenheit v

/-- `41_decoder.md` section 5, last table: the two frames of a disconnected peer. -/
def Obligations.DisconnectedPeerFramesDecode : Prop :=
  (faultCode 0xFFFFFFFF#32 = 7#3 ∧ probeCelsius 0xFFFFFFFF#32 = .invalid ∧
    probeFahrenheit 0xFFFFFFFF#32 = .invalid ∧ internalCount 0xFFFFFFFF#32 = -2047) ∧
  (faultCode 0x00000000#32 = 0#3 ∧ probeCelsius 0x00000000#32 = .value 0 ∧
    probeFahrenheit 0x00000000#32 = .value 32 ∧ internalCelsius 0x00000000#32 = .value 0)

/-! ### The frame on the wire -/

/-- `20_memory.md` section 2: the frame of 32 samples is the sum of `s_i * 2^(31 - i)`, and sample `i` is its bit `31 - i`. -/
def Obligations.FrameIsMostSignificantBitFirst : Prop :=
  ∀ f : Fin 32 → Level,
    (frameValue f).toNat = ∑ i : Fin 32, (f i).toNat * 2 ^ (31 - i.val) ∧
    ∀ i : Fin 32, (frameValue f).getLsbD (31 - i.val) = f i

/-- R53: the frame is assembled from the buffer by explicit position: the shifts give the concatenation, `BUF[3]` most
significant. -/
def Obligations.BufferIsAssembledByPosition : Prop :=
  ∀ b : Vector Byte 4,
    bufferFrame b = (b[3].setWidth 32 <<< 24) ||| (b[2].setWidth 32 <<< 16) ||| (b[1].setWidth 32 <<< 8) |||
      b[0].setWidth 32 ∧
    bufferFrame b = (((b[3] ++ b[2]) ++ b[1]) ++ b[0] : BitVec 32)

/-! ### The micro-operations -/

/-- R92: a drive writes the line and appends its event, whether or not the line already stands so, and changes nothing
else. -/
def Obligations.DriveWritesItsLineAndNothingElse : Prop :=
  ∀ (b : Level) (s : State),
    (MicroOp.drive .cs b).perform s = { s with cs := b, trace := s.trace ++ [.write .cs b] } ∧
    (MicroOp.drive .sck b).perform s = { s with sck := b, trace := s.trace ++ [.write .sck b] }

/-- R93: a settling delay appends `D` and changes no state element. -/
def Obligations.SettleOnlyAppendsADelay : Prop :=
  ∀ s : State, MicroOp.settle.perform s = { s with trace := s.trace ++ [.delay] }

/-- R94: the sample is appended to the trace, `ACC` becomes twice itself on 32 bits plus the sample. -/
def Obligations.ShiftSampleDoublesAndAdds : Prop :=
  ∀ (i : Fin 32) (s : State),
    (MicroOp.shiftSample i).perform s =
      { s with
        acc := BitVec.ofNat 32 (2 * s.acc.toNat + (s.sample i).toNat)
        trace := s.trace ++ [.sample (s.sample i)] }

/-- R95: the clock rises, the sample is taken, `RXB` becomes twice itself on 8 bits plus the sample. -/
def Obligations.RiseSampleRaisesTheClockAndShifts : Prop :=
  ∀ (i : Fin 32) (s : State),
    (MicroOp.riseSample i).perform s =
      { s with
        sck := true
        rxb := BitVec.ofNat 8 (2 * s.rxb.toNat + (s.sample i).toNat)
        trace := s.trace ++ [.write .sck true, .sample (s.sample i)] }

/-- `40_transport.md` section 4, the effect of `FALL(k, j)`: the clock falls; after slot 7, and only then, `RXB` is
placed at `BUF[3 - k]` and nowhere else. -/
def Obligations.FallPlacesTheCompleteByte : Prop :=
  ∀ (k : Fin 4) (j : Fin 8) (s t : State), t = (MicroOp.fall k j).perform s →
    { t with buf := s.buf } = { s with sck := false, trace := s.trace ++ [.write .sck false] } ∧
    ∀ n : Fin 4, t.buf[n] = if j = 7 ∧ n.val + k.val = 3 then s.rxb else s.buf[n]

/-- `10_state.md` section 5 and `40_transport.md` sections 3 and 4: the two fixed lists have 165 and 67 positions, begin
where acceptance puts `SEQ`, follow each other by the successor, and lead to `DEC`. -/
def Obligations.SequencesAreTheListedOnes : Prop :=
  manualSequence.length = 165 ∧ hardwareSequence.length = 67 ∧
  manualSequence.head? = some (Pos.first .manual) ∧ hardwareSequence.head? = some (Pos.first .hardware) ∧
  manualSequence.map Pos.next = manualSequence.tail ++ [.dec] ∧
  hardwareSequence.map Pos.next = hardwareSequence.tail ++ [.dec]

/-! ### Steps -/

/-- A step runs the decoded instruction. A request that decodes, with the block at rest if it is a command, is run from
the state without the host's move; with a quiet host the running command, decoded from `OPR`, is run; at rest with a
quiet host the block waits, and only the host's move is gone. -/
def Obligations.StepRunsTheDecodedInstruction : Prop :=
  (∀ (s : State) (r : Request) (rest : List HostMove) (i : Instr),
    s.host = .request r :: rest → decode r = .ok i → (i.isCommand = true → s.busy = false) →
    step s = exec i { s with host := rest }) ∧
  (∀ s : State, s.host.getD 0 .quiet = .quiet → s.busy = true →
    step s = exec (decodeCommand s.opr) { s with host := s.host.tail }) ∧
  (∀ s : State, s.host.getD 0 .quiet = .quiet → s.busy = false →
    step s = .next { s with host := s.host.tail })

/-- `42_commands.md` section 1: a command presented with `BUSY = 0` is accepted: `OPR`, `BUSY` and `SEQ` are written, nothing else. -/
def Obligations.IdleBlockAcceptsACommand : Prop :=
  ∀ (s : State) (c : CmdCode) (rest : List HostMove),
    s.busy = false → s.host = .request (.command c) :: rest →
    step s = .next { s with
      opr := c
      busy := true
      seq := match s.mode with
        | .manual => .m1a
        | .hardware => .h2a
      host := rest }

/-- `42_commands.md` section 4 (the rule of a command started while another runs): a command presented with `BUSY = 1` has
no step: it is refused, whatever the position. The second clause is the model's choice (log 7), no rule of the spec: a
read command's own meaning, in a state that runs a command of another code, is refused under the same name; no step
runs it there. -/
def Obligations.CommandWhileBusyIsRefused : Prop :=
  (∀ (s : State) (c : CmdCode) (rest : List HostMove),
    s.busy = true → s.host = .request (.command c) :: rest → step s = .refused .commandWhileBusy) ∧
  (∀ (s : State) (c : CmdCode), s.busy = true → s.opr ≠ c →
    exec (decodeCommand c) s = .refused .commandWhileBusy)

/-- `30_encoding.md` section 2: the entry points take three identifiers and one. That a strap with another number of
them is refused under this name is the model's choice (log 8). -/
def Obligations.MalformedConstructionIsRefused : Prop :=
  ∀ (s : State) (l : Strap) (ids : List LineId) (rest : List HostMove),
    s.host = .request (.strap l ids) :: rest → ids.length ≠ (if l = 0#1 then 3 else 1) →
    step s = .refused .malformedRequest

/-- `10_state.md` section 5: while a command runs, and before `DEC`, its step performs the micro-operation at `SEQ` (the
first one of an acquisition also counting it, and clearing `ACC` in the manual strategy) and moves to the next
position. -/
def Obligations.RunningCommandMakesTheStepAtSeq : Prop :=
  ∀ (s : State) (o : MicroOp), s.busy = true → s.seq.op = some o →
    exec (decodeCommand s.opr) s = .next
      { o.perform
          { s with
            frameNo := if s.seq = .m1a ∨ s.seq = .h2a then s.frameNo + 1 else s.frameNo
            acc := if s.seq = .m1a then 0#32 else s.acc } with
        seq := s.seq.next }

/-! ### The read commands -/

/-- R142: `READ_INTERNAL`. At rest it is accepted; at `DEC` it delivers; and from rest, with a quiet host, its whole
operation appends the events of one acquisition and then its result, always valid. -/
def Obligations.ReadInternalOperation : Prop :=
  ∀ s : State,
    (s.busy = false → exec .readInternal s =
      .next { s with opr := 0b00#2, busy := true, seq := Pos.first s.mode }) ∧
    (∀ v : Frame, s.busy = true → s.opr = 0b00#2 → s.seq = .dec → v = s.acquired →
      exec .readInternal s = .next { s with
        busy := false
        seq := .idle
        trace := s.trace ++ [.result 0b00#2 true (BitVec.ofInt 18
          (if (v >>> 4).getLsbD 11 then -(((v >>> 4) &&& 0x7FF#32).toNat : ℤ)
            else (((v >>> 4) &&& 0x7FF#32).toNat : ℤ)))] }) ∧
    (∀ (v : Frame) (rest : List HostMove), s.busy = false → s.host = .request (.command 0b00#2) :: rest →
      quietFor (operationSteps s.mode) rest → v = s.frameAt s.frameNo →
      ∃ t, run (operationSteps s.mode + 1) s = .next t ∧ t.busy = false ∧ t.seq = .idle ∧
        t.trace = s.trace ++ eventsOf s.mode v ++ [.result 0b00#2 true (BitVec.ofInt 18
          (if (v >>> 4).getLsbD 11 then -(((v >>> 4) &&& 0x7FF#32).toNat : ℤ)
            else (((v >>> 4) &&& 0x7FF#32).toNat : ℤ)))])

/-- R143: `READ_CELSIUS`. As R142, with the count of quarter degrees, or invalid with data 0 when `v[2:0] != 0`. -/
def Obligations.ReadCelsiusOperation : Prop :=
  ∀ s : State,
    (s.busy = false → exec .readCelsius s =
      .next { s with opr := 0b01#2, busy := true, seq := Pos.first s.mode }) ∧
    (∀ v : Frame, s.busy = true → s.opr = 0b01#2 → s.seq = .dec → v = s.acquired →
      exec .readCelsius s = .next { s with
        busy := false
        seq := .idle
        trace := s.trace ++ [if v &&& 0x7#32 = 0#32 then .result 0b01#2 true (BitVec.ofInt 18 (v.toInt / 2 ^ 18))
          else .result 0b01#2 false 0#18] }) ∧
    (∀ (v : Frame) (rest : List HostMove), s.busy = false → s.host = .request (.command 0b01#2) :: rest →
      quietFor (operationSteps s.mode) rest → v = s.frameAt s.frameNo →
      ∃ t, run (operationSteps s.mode + 1) s = .next t ∧ t.busy = false ∧ t.seq = .idle ∧
        t.trace = s.trace ++ eventsOf s.mode v ++
          [if v &&& 0x7#32 = 0#32 then .result 0b01#2 true (BitVec.ofInt 18 (v.toInt / 2 ^ 18))
            else .result 0b01#2 false 0#18])

/-- R144: `READ_FAHRENHEIT`. As R143, with `9 * q + 640` counts of a twentieth of a degree, from its own frame. -/
def Obligations.ReadFahrenheitOperation : Prop :=
  ∀ s : State,
    (s.busy = false → exec .readFahrenheit s =
      .next { s with opr := 0b10#2, busy := true, seq := Pos.first s.mode }) ∧
    (∀ v : Frame, s.busy = true → s.opr = 0b10#2 → s.seq = .dec → v = s.acquired →
      exec .readFahrenheit s = .next { s with
        busy := false
        seq := .idle
        trace := s.trace ++
          [if v &&& 0x7#32 = 0#32 then .result 0b10#2 true (BitVec.ofInt 18 (9 * (v.toInt / 2 ^ 18) + 640))
            else .result 0b10#2 false 0#18] }) ∧
    (∀ (v : Frame) (rest : List HostMove), s.busy = false → s.host = .request (.command 0b10#2) :: rest →
      quietFor (operationSteps s.mode) rest → v = s.frameAt s.frameNo →
      ∃ t, run (operationSteps s.mode + 1) s = .next t ∧ t.busy = false ∧ t.seq = .idle ∧
        t.trace = s.trace ++ eventsOf s.mode v ++
          [if v &&& 0x7#32 = 0#32 then .result 0b10#2 true (BitVec.ofInt 18 (9 * (v.toInt / 2 ^ 18) + 640))
            else .result 0b10#2 false 0#18])

/-- R145: `READ_ERROR`. As R142, always valid, with `v[2:0]` of its own frame. -/
def Obligations.ReadErrorOperation : Prop :=
  ∀ s : State,
    (s.busy = false → exec .readError s =
      .next { s with opr := 0b11#2, busy := true, seq := Pos.first s.mode }) ∧
    (∀ v : Frame, s.busy = true → s.opr = 0b11#2 → s.seq = .dec → v = s.acquired →
      exec .readError s = .next { s with
        busy := false
        seq := .idle
        trace := s.trace ++ [.result 0b11#2 true (BitVec.ofNat 18 (v.toNat % 8))] }) ∧
    (∀ (v : Frame) (rest : List HostMove), s.busy = false → s.host = .request (.command 0b11#2) :: rest →
      quietFor (operationSteps s.mode) rest → v = s.frameAt s.frameNo →
      ∃ t, run (operationSteps s.mode + 1) s = .next t ∧ t.busy = false ∧ t.seq = .idle ∧
        t.trace = s.trace ++ eventsOf s.mode v ++ [.result 0b11#2 true (BitVec.ofNat 18 (v.toNat % 8))])

/-- `40_transport.md` section 3 and `42_commands.md` section 1: a whole manual operation, for any command and any answers
of the peer: 166 steps after acceptance, the trace of R99, `ACC` the sampled frame, `CS = 1`, `SCK = 1`, one result, and
nothing else changed. `OPR` keeping the code afterwards is the model's choice (log 4). -/
def Obligations.ManualOperationIsExact : Prop :=
  ∀ (s : State) (c : CmdCode) (rest : List HostMove) (v : Frame),
    s.mode = .manual → s.busy = false → s.host = .request (.command c) :: rest → quietFor 166 rest →
    (∀ i : Fin 32, v.getLsbD (31 - i.val) = s.sampleAt s.frameNo i) →
    run 167 s = .next { s with
      opr := c
      frameNo := s.frameNo + 1
      acc := v
      cs := true
      sck := true
      seq := .idle
      busy := false
      host := rest.drop 166
      trace := s.trace ++
        ([.write .sck false, .delay, .write .cs false, .delay]
          ++ (List.finRange 32).flatMap (fun i =>
              [.write .sck false, .delay, .sample (s.sampleAt s.frameNo i), .write .sck true, .delay])
          ++ [.write .cs true, .result c (resultFor c v).valid (resultFor c v).data]) }

/-- `40_transport.md` section 4 and `42_commands.md` section 1: a whole hardware operation: 68 steps after acceptance, the
trace of R108, `BUF` and `RXB` the sampled frame's bytes, `CS = 1`, `SCK = 0`, one result, and nothing else changed.
`OPR` keeping the code afterwards is the model's choice (log 4). -/
def Obligations.HardwareOperationIsExact : Prop :=
  ∀ (s : State) (c : CmdCode) (rest : List HostMove) (v : Frame),
    s.mode = .hardware → s.busy = false → s.host = .request (.command c) :: rest → quietFor 68 rest →
    (∀ i : Fin 32, v.getLsbD (31 - i.val) = s.sampleAt s.frameNo i) →
    run 69 s = .next { s with
      opr := c
      frameNo := s.frameNo + 1
      rxb := v.extractLsb' 0 8
      buf := #v[v.extractLsb' 0 8, v.extractLsb' 8 8, v.extractLsb' 16 8, v.extractLsb' 24 8]
      cs := true
      sck := false
      seq := .idle
      busy := false
      host := rest.drop 68
      trace := s.trace ++
        ([.write .cs false, .delay]
          ++ (List.finRange 32).flatMap (fun i =>
              [.write .sck true, .sample (s.sampleAt s.frameNo i), .write .sck false])
          ++ [.write .cs true, .result c (resultFor c v).valid (resultFor c v).data]) }

/-- `40_transport.md` section 5: given the same answers of the peer, the manual and the hardware strategy return the same
32-bit value and the same result, for every command, whatever the two blocks held before. -/
def Obligations.StrategiesAreEquivalent : Prop :=
  ∀ (s₁ s₂ : State) (c : CmdCode) (rest₁ rest₂ : List HostMove),
    s₁.mode = .manual → s₂.mode = .hardware → s₁.busy = false → s₂.busy = false →
    s₁.host = .request (.command c) :: rest₁ → s₂.host = .request (.command c) :: rest₂ →
    quietFor 166 rest₁ → quietFor 68 rest₂ →
    (∀ i : Fin 32, s₁.sampleAt s₁.frameNo i = s₂.sampleAt s₂.frameNo i) →
    ∃ (t₁ t₂ : State) (valid : Bool) (data : ResData),
      run 167 s₁ = .next t₁ ∧ run 69 s₂ = .next t₂ ∧ t₁.acquired = t₂.acquired ∧
      t₁.trace.getLast? = some (.result c valid data) ∧ t₂.trace.getLast? = some (.result c valid data)

/-- `20_memory.md` section 3 and `70_reset_and_hazards.md` section 2: two commands in a row take two acquisitions, each
result made of its own acquisition's samples. -/
def Obligations.TwoReadsAreTwoFrames : Prop :=
  ∀ (s : State) (c d : CmdCode) (mid rest : List HostMove) (n : Nat),
    n = operationSteps s.mode → s.busy = false →
    s.host = .request (.command c) :: (mid ++ .request (.command d) :: rest) →
    mid.length = n → quietFor n mid → quietFor n rest →
    ∃ t, run (2 * (n + 1)) s = .next t ∧ t.frameNo = s.frameNo + 2 ∧
      t.trace = s.trace
        ++ eventsOf s.mode (s.frameAt s.frameNo)
        ++ [.result c (resultFor c (s.frameAt s.frameNo)).valid (resultFor c (s.frameAt s.frameNo)).data]
        ++ eventsOf s.mode (s.frameAt (s.frameNo + 1))
        ++ [.result d (resultFor d (s.frameAt (s.frameNo + 1))).valid
            (resultFor d (s.frameAt (s.frameNo + 1))).data]

/-- The frame of one step of a read command: the configuration, `MOSI` and what host and peer will do are unchanged;
each other register changes only at the positions whose micro-operation writes it; the trace only grows. -/
def Obligations.ReadCommandFrame : Prop :=
  ∀ (i : Instr) (s t : State), i.isCommand = true → exec i s = .next t →
    (t.mode = s.mode ∧ t.csId = s.csId ∧ t.clkId = s.clkId ∧ t.misoId = s.misoId ∧ t.bus = s.bus ∧
      t.mosi = s.mosi ∧ t.life = s.life ∧ t.oracle = s.oracle ∧ t.host = s.host) ∧
    (s.busy = false → t = { s with opr := t.opr, busy := true, seq := Pos.first s.mode }) ∧
    (s.busy = true → t.opr = s.opr) ∧
    (t.cs ≠ s.cs → s.busy = true ∧ (s.seq = .m1c ∨ s.seq = .m3 ∨ s.seq = .h2a ∨ s.seq = .h4)) ∧
    (t.sck ≠ s.sck → s.busy = true ∧ (s.seq = .m1a ∨ (∃ n, s.seq = .m2a n ∨ s.seq = .m2d n) ∨
      ∃ k j, s.seq = .h3r k j ∨ s.seq = .h3f k j)) ∧
    (t.acc ≠ s.acc → s.busy = true ∧ (s.seq = .m1a ∨ ∃ n, s.seq = .m2c n)) ∧
    (t.rxb ≠ s.rxb → s.busy = true ∧ ∃ k j, s.seq = .h3r k j) ∧
    (∀ n : Fin 4, t.buf[n] ≠ s.buf[n] → s.busy = true ∧ ∃ k : Fin 4, s.seq = .h3f k 7 ∧ n.val + k.val = 3) ∧
    (t.frameNo = if s.busy = true ∧ (s.seq = .m1a ∨ s.seq = .h2a) then s.frameNo + 1 else s.frameNo) ∧
    ∃ es, t.trace = s.trace ++ es

/-! ### Construction and reset -/

/-- R146: `CONSTRUCT_MANUAL`, from any state. `OPR` is left unspecified by the rule, so it is not spoken of. -/
def Obligations.ConstructManualLeavesResetValues : Prop :=
  ∀ (clk cs miso : LineId) (s : State),
    ∃ t, exec (.constructManual clk cs miso) s = .next t ∧
      t.mode = .manual ∧ t.clkId = some clk ∧ t.csId = cs ∧ t.misoId = some miso ∧
      t.bus = none ∧ t.mosi = none ∧ t.cs = true ∧ t.sck = false ∧
      t.acc = 0#32 ∧ t.rxb = 0#8 ∧ t.buf = #v[0#8, 0#8, 0#8, 0#8] ∧
      t.seq = .idle ∧ t.busy = false ∧ t.frameNo = 0 ∧ t.trace = [] ∧ t.host = s.host

/-- R147: `CONSTRUCT_HW`, from any state. `OPR` is left unspecified by the rule, so it is not spoken of. -/
def Obligations.ConstructHwLeavesResetValues : Prop :=
  ∀ (cs : LineId) (s : State),
    ∃ t, exec (.constructHw cs) s = .next t ∧
      t.mode = .hardware ∧ t.csId = cs ∧ t.clkId = none ∧ t.misoId = none ∧
      t.bus = some { bitOrder := .msbFirst, spiMode := .mode0, clkDiv := Config.spiClkDiv } ∧
      t.cs = true ∧ t.sck = false ∧ t.mosi = some false ∧
      t.acc = 0#32 ∧ t.rxb = 0#8 ∧ t.buf = #v[0#8, 0#8, 0#8, 0#8] ∧
      t.seq = .idle ∧ t.busy = false ∧ t.frameNo = 0 ∧ t.trace = [] ∧ t.host = s.host

/-- R182: a reset at any position of a running operation: the operation is abandoned and leaves no result, the lines go
to their reset levels, the partial data is discarded, and the strap is read again. -/
def Obligations.ResetAbandonsTheOperation : Prop :=
  ∀ (s : State) (l : Strap) (ids : List LineId) (rest : List HostMove) (i : Instr),
    s.busy = true → s.host = .request (.strap l ids) :: rest → decode (.strap l ids) = .ok i →
    ∃ t, step s = .next t ∧ t.mode = (if l = 0#1 then .manual else .hardware) ∧
      (∀ op valid data, .result op valid data ∉ t.trace) ∧ t.cs = true ∧ t.sck = false ∧
      t.acc = 0#32 ∧ t.rxb = 0#8 ∧ t.buf = #v[0#8, 0#8, 0#8, 0#8] ∧
      t.seq = .idle ∧ t.busy = false ∧ t.host = rest

/-- R37: the value of every element of the state after reset, the configuration being the strap and the construction
arguments, with the clock and data-in identifiers absent in `HARDWARE` mode and the bus and `MOSI` absent in `MANUAL`
mode. `OPR` is unspecified by the rule, so it is not spoken of. -/
def Obligations.ResetStateIsTheTableOfResetValues : Prop :=
  State.reset.mode = Config.strap ∧ State.reset.csId = Config.csId ∧
  State.reset.clkId = (if Config.strap = .manual then some Config.clkId else none) ∧
  State.reset.misoId = (if Config.strap = .manual then some Config.misoId else none) ∧
  State.reset.bus = (if Config.strap = .manual then none
    else some { bitOrder := .msbFirst, spiMode := .mode0, clkDiv := Config.spiClkDiv }) ∧
  State.reset.cs = true ∧ State.reset.sck = false ∧
  State.reset.mosi = (if Config.strap = .manual then none else some false) ∧
  State.reset.acc = 0#32 ∧ State.reset.rxb = 0#8 ∧ State.reset.buf = #v[0#8, 0#8, 0#8, 0#8] ∧
  State.reset.seq = .idle ∧ State.reset.busy = false ∧
  State.reset.frameNo = 0 ∧ State.reset.trace = []

/-- `60_exceptions.md` section 6 (the idle block does nothing) and `70_reset_and_hazards.md` section 1 (it waits, idle,
for a command): from any state at rest, `n` steps of a quiet host take its `n` moves away and change nothing else. That
waiting is a step is the model's choice (log 27). -/
def Obligations.IdleBlockWaitsWhileTheHostIsQuiet : Prop :=
  ∀ (s : State) (n : Nat), s.busy = false → quietFor n s.host →
    run n s = .next { s with host := s.host.drop n }

/-! ### Whole-machine rules -/

/-- R23: the strategy and the identifiers, with the bus configuration, are set at construction and hold until the next:
no step that is not a construction changes them. -/
def Obligations.ConfigurationHoldsUntilTheNextReset : Prop :=
  ∀ s t : State, (∀ l ids rest, s.host ≠ .request (.strap l ids) :: rest) → step s = .next t →
    t.mode = s.mode ∧ t.csId = s.csId ∧ t.clkId = s.clkId ∧ t.misoId = s.misoId ∧ t.bus = s.bus

/-- R27: `MOSI` exists in `HARDWARE` mode only and holds 0 from construction onward: no step writes it, and no step
appends an event that does. -/
def Obligations.OutgoingLineIsNeverDriven : Prop :=
  ∀ s t : State, s.Configured → (∀ b, .write .mosi b ∉ s.trace) → step s = .next t →
    t.mosi = (if t.mode = .manual then none else some false) ∧ ∀ b, .write .mosi b ∉ t.trace

/-- Every step keeps the configuration that a construction makes (`10_state.md` section 2). -/
def Obligations.StepKeepsTheConfiguration : Prop :=
  ∀ s t : State, s.Configured → step s = .next t → t.Configured

/-- Every step keeps control and lines (`10_state.md` sections 3 and 5): `BUSY` is 1 exactly while `SEQ` is not `IDLE`,
the position is one of the strategy's, and `CS` and `SCK` stand at the levels of their position. -/
def Obligations.StepKeepsControlAndLines : Prop :=
  ∀ s t : State, s.Controlled → step s = .next t → t.Controlled

/-- Every step keeps the samples held (`40_transport.md` sections 2 to 4): `ACC`, or `RXB` and `BUF`, hold exactly the
samples taken so far of the acquisition in progress, in their places. -/
def Obligations.StepKeepsTheSamplesHeld : Prop :=
  ∀ s t : State, s.Controlled → s.HoldsSamples → step s = .next t → t.HoldsSamples

/-- Every step keeps the accounts of the trace (`42_commands.md` section 1, `20_memory.md` section 3): one acquisition
and 32 samples for each result, and what the operation under way has taken. -/
def Obligations.StepKeepsTheAccounts : Prop :=
  ∀ s t : State, s.Controlled → s.Accounted → step s = .next t → t.Accounted

/-- The invariants hold right after reset. -/
def Obligations.ResetMeetsTheInvariants : Prop :=
  State.reset.Configured ∧ State.reset.Controlled ∧ State.reset.HoldsSamples ∧ State.reset.Accounted

/-- R51: at `DEC`, in both strategies, the acquired frame is the sum of `s_i * 2^(31 - i)` over the samples of this
acquisition: sample `i` is its bit `31 - i`. -/
def Obligations.AcquiredFrameIsTheSampledFrame : Prop :=
  ∀ s : State, s.Controlled → s.HoldsSamples → s.seq = .dec →
    s.acquired.toNat = ∑ i : Fin 32, (s.sampleAt (s.frameNo - 1) i).toNat * 2 ^ (31 - i.val) ∧
    ∀ i : Fin 32, s.acquired.getLsbD (31 - i.val) = s.sampleAt (s.frameNo - 1) i

/-- `10_state.md` section 3: every sample is taken while `CS = 0`: a step that appends a sample event is made with
chip-select low, before and after. -/
def Obligations.SamplesAreTakenOnlyWhileSelected : Prop :=
  ∀ s t : State, s.Controlled → step s = .next t →
    s.trace.countP Event.isSample < t.trace.countP Event.isSample → s.cs = false ∧ t.cs = false

/-- R112: an acquisition raises nothing, waits for nobody and ends after its fixed number of steps, 165 or 67, whatever
is sampled; and from any position of a running operation, `n` quiet steps bring its end nearer by `n`. -/
def Obligations.AcquisitionEndsAfterItsFixedSteps : Prop :=
  (∀ s : State, s.mode = .manual → s.busy = true → s.seq = .m1a → quietFor 165 s.host →
    ∃ t, run 165 s = .next t ∧ t.seq = .dec) ∧
  (∀ s : State, s.mode = .hardware → s.busy = true → s.seq = .h2a → quietFor 67 s.host →
    ∃ t, run 67 s = .next t ∧ t.seq = .dec) ∧
  (∀ (s : State) (n : Nat), s.Controlled → n ≤ s.seq.stepsLeft → quietFor n s.host →
    ∃ t, run n s = .next t ∧ t.seq.stepsLeft + n = s.seq.stepsLeft)

/-- `60_exceptions.md` section 1 and `42_commands.md` section 4: with a host that keeps the protocol, no run stops, of any
length and with any peer. -/
def Obligations.ServedHostIsNeverRefused : Prop :=
  ∀ (s : State) (n : Nat), s.Controlled → s.served = true →
    ∃ t, run n s = .next t ∧ t.Controlled ∧ t.served = true

/-- `20_memory.md` section 4: whether there is a step, and where the sequencer and the lines go, never depends on what
the peer answers or answered. -/
def Obligations.PeerNeverSteersControl : Prop :=
  ∀ (s t : State) (o : List Frame) (l : Nat) (a : BitVec 32) (x : Byte) (b : Vector Byte 4),
    step s = .next t →
    ∃ t', step { s with oracle := o, life := l, acc := a, rxb := x, buf := b } = .next t' ∧
      t'.seq = t.seq ∧ t'.busy = t.busy ∧ t'.opr = t.opr ∧ t'.mode = t.mode ∧ t'.cs = t.cs ∧ t'.sck = t.sck ∧
      t'.mosi = t.mosi ∧ t'.frameNo = t.frameNo ∧ t'.host = t.host

/-- `20_memory.md` section 6 (the reference peer is the spec's general knowledge, log 23): a peer that holds a word and
starts deselected answers the samples of an acquisition of `v` exactly when `v` is its word, in either strategy. -/
def Obligations.BothStrategiesReadTheReferencePeer : Prop :=
  ∀ (p : Peer) (v : Frame) (m : Mode), p.cs = true → (p.answers (eventsOf m v) = true ↔ v = p.word)
end

