-- ==== Sys2Proof/Laws/State.lean ====
section
/-!
SUPPORT. One lemma per field per update of the state: what each named operation does to each field, so that no proof
unfolds a record update.
-/

namespace Sys2Proof.Machine

/-! ### Appending an event -/

@[simp] theorem State.log_mode (s : State) (e : Event) : (s.log e).mode = s.mode := rfl

@[simp] theorem State.log_csId (s : State) (e : Event) : (s.log e).csId = s.csId := rfl

@[simp] theorem State.log_clkId (s : State) (e : Event) : (s.log e).clkId = s.clkId := rfl

@[simp] theorem State.log_misoId (s : State) (e : Event) : (s.log e).misoId = s.misoId := rfl

@[simp] theorem State.log_bus (s : State) (e : Event) : (s.log e).bus = s.bus := rfl

@[simp] theorem State.log_cs (s : State) (e : Event) : (s.log e).cs = s.cs := rfl

@[simp] theorem State.log_sck (s : State) (e : Event) : (s.log e).sck = s.sck := rfl

@[simp] theorem State.log_mosi (s : State) (e : Event) : (s.log e).mosi = s.mosi := rfl

@[simp] theorem State.log_acc (s : State) (e : Event) : (s.log e).acc = s.acc := rfl

@[simp] theorem State.log_rxb (s : State) (e : Event) : (s.log e).rxb = s.rxb := rfl

@[simp] theorem State.log_buf (s : State) (e : Event) : (s.log e).buf = s.buf := rfl

@[simp] theorem State.log_seq (s : State) (e : Event) : (s.log e).seq = s.seq := rfl

@[simp] theorem State.log_busy (s : State) (e : Event) : (s.log e).busy = s.busy := rfl

@[simp] theorem State.log_opr (s : State) (e : Event) : (s.log e).opr = s.opr := rfl

@[simp] theorem State.log_frameNo (s : State) (e : Event) : (s.log e).frameNo = s.frameNo := rfl

@[simp] theorem State.log_life (s : State) (e : Event) : (s.log e).life = s.life := rfl

@[simp] theorem State.log_oracle (s : State) (e : Event) : (s.log e).oracle = s.oracle := rfl

@[simp] theorem State.log_host (s : State) (e : Event) : (s.log e).host = s.host := rfl

@[simp] theorem State.log_trace (s : State) (e : Event) : (s.log e).trace = s.trace ++ [e] := rfl

/-! ### A line write -/

@[simp] theorem lineWrite_mode (l : OutLine) (b : Level) (s : State) : (lineWrite l b s).mode = s.mode := by
  cases l <;> rfl

@[simp] theorem lineWrite_csId (l : OutLine) (b : Level) (s : State) : (lineWrite l b s).csId = s.csId := by
  cases l <;> rfl

@[simp] theorem lineWrite_clkId (l : OutLine) (b : Level) (s : State) : (lineWrite l b s).clkId = s.clkId := by
  cases l <;> rfl

@[simp] theorem lineWrite_misoId (l : OutLine) (b : Level) (s : State) : (lineWrite l b s).misoId = s.misoId := by
  cases l <;> rfl

@[simp] theorem lineWrite_bus (l : OutLine) (b : Level) (s : State) : (lineWrite l b s).bus = s.bus := by
  cases l <;> rfl

@[simp] theorem lineWrite_acc (l : OutLine) (b : Level) (s : State) : (lineWrite l b s).acc = s.acc := by
  cases l <;> rfl

@[simp] theorem lineWrite_rxb (l : OutLine) (b : Level) (s : State) : (lineWrite l b s).rxb = s.rxb := by
  cases l <;> rfl

@[simp] theorem lineWrite_buf (l : OutLine) (b : Level) (s : State) : (lineWrite l b s).buf = s.buf := by
  cases l <;> rfl

@[simp] theorem lineWrite_seq (l : OutLine) (b : Level) (s : State) : (lineWrite l b s).seq = s.seq := by
  cases l <;> rfl

@[simp] theorem lineWrite_busy (l : OutLine) (b : Level) (s : State) : (lineWrite l b s).busy = s.busy := by
  cases l <;> rfl

@[simp] theorem lineWrite_opr (l : OutLine) (b : Level) (s : State) : (lineWrite l b s).opr = s.opr := by
  cases l <;> rfl

@[simp] theorem lineWrite_frameNo (l : OutLine) (b : Level) (s : State) : (lineWrite l b s).frameNo = s.frameNo := by
  cases l <;> rfl

@[simp] theorem lineWrite_life (l : OutLine) (b : Level) (s : State) : (lineWrite l b s).life = s.life := by
  cases l <;> rfl

@[simp] theorem lineWrite_oracle (l : OutLine) (b : Level) (s : State) : (lineWrite l b s).oracle = s.oracle := by
  cases l <;> rfl

@[simp] theorem lineWrite_host (l : OutLine) (b : Level) (s : State) : (lineWrite l b s).host = s.host := by
  cases l <;> rfl

@[simp] theorem lineWrite_cs_cs (b : Level) (s : State) : (lineWrite .cs b s).cs = b := rfl

@[simp] theorem lineWrite_cs_sck (b : Level) (s : State) : (lineWrite .cs b s).sck = s.sck := rfl

@[simp] theorem lineWrite_cs_mosi (b : Level) (s : State) : (lineWrite .cs b s).mosi = s.mosi := rfl

@[simp] theorem lineWrite_sck_cs (b : Level) (s : State) : (lineWrite .sck b s).cs = s.cs := rfl

@[simp] theorem lineWrite_sck_sck (b : Level) (s : State) : (lineWrite .sck b s).sck = b := rfl

@[simp] theorem lineWrite_sck_mosi (b : Level) (s : State) : (lineWrite .sck b s).mosi = s.mosi := rfl

@[simp] theorem lineWrite_mosi_cs (b : Level) (s : State) : (lineWrite .mosi b s).cs = s.cs := rfl

@[simp] theorem lineWrite_mosi_sck (b : Level) (s : State) : (lineWrite .mosi b s).sck = s.sck := rfl

@[simp] theorem lineWrite_mosi_mosi (b : Level) (s : State) : (lineWrite .mosi b s).mosi = s.mosi.map (fun _ => b) := rfl

@[simp] theorem lineWrite_trace (l : OutLine) (b : Level) (s : State) : (lineWrite l b s).trace = s.trace ++ [.write l b] := by
  cases l <;> rfl

/-! ### A delay -/

@[simp] theorem delay_mode (s : State) : (delay s).mode = s.mode := rfl

@[simp] theorem delay_csId (s : State) : (delay s).csId = s.csId := rfl

@[simp] theorem delay_clkId (s : State) : (delay s).clkId = s.clkId := rfl

@[simp] theorem delay_misoId (s : State) : (delay s).misoId = s.misoId := rfl

@[simp] theorem delay_bus (s : State) : (delay s).bus = s.bus := rfl

@[simp] theorem delay_cs (s : State) : (delay s).cs = s.cs := rfl

@[simp] theorem delay_sck (s : State) : (delay s).sck = s.sck := rfl

@[simp] theorem delay_mosi (s : State) : (delay s).mosi = s.mosi := rfl

@[simp] theorem delay_acc (s : State) : (delay s).acc = s.acc := rfl

@[simp] theorem delay_rxb (s : State) : (delay s).rxb = s.rxb := rfl

@[simp] theorem delay_buf (s : State) : (delay s).buf = s.buf := rfl

@[simp] theorem delay_seq (s : State) : (delay s).seq = s.seq := rfl

@[simp] theorem delay_busy (s : State) : (delay s).busy = s.busy := rfl

@[simp] theorem delay_opr (s : State) : (delay s).opr = s.opr := rfl

@[simp] theorem delay_frameNo (s : State) : (delay s).frameNo = s.frameNo := rfl

@[simp] theorem delay_life (s : State) : (delay s).life = s.life := rfl

@[simp] theorem delay_oracle (s : State) : (delay s).oracle = s.oracle := rfl

@[simp] theorem delay_host (s : State) : (delay s).host = s.host := rfl

@[simp] theorem delay_trace (s : State) : (delay s).trace = s.trace ++ [.delay] := rfl

/-! ### A result -/

@[simp] theorem emit_mode (c : CmdCode) (r : Result) (s : State) : (emit c r s).mode = s.mode := rfl

@[simp] theorem emit_csId (c : CmdCode) (r : Result) (s : State) : (emit c r s).csId = s.csId := rfl

@[simp] theorem emit_clkId (c : CmdCode) (r : Result) (s : State) : (emit c r s).clkId = s.clkId := rfl

@[simp] theorem emit_misoId (c : CmdCode) (r : Result) (s : State) : (emit c r s).misoId = s.misoId := rfl

@[simp] theorem emit_bus (c : CmdCode) (r : Result) (s : State) : (emit c r s).bus = s.bus := rfl

@[simp] theorem emit_cs (c : CmdCode) (r : Result) (s : State) : (emit c r s).cs = s.cs := rfl

@[simp] theorem emit_sck (c : CmdCode) (r : Result) (s : State) : (emit c r s).sck = s.sck := rfl

@[simp] theorem emit_mosi (c : CmdCode) (r : Result) (s : State) : (emit c r s).mosi = s.mosi := rfl

@[simp] theorem emit_acc (c : CmdCode) (r : Result) (s : State) : (emit c r s).acc = s.acc := rfl

@[simp] theorem emit_rxb (c : CmdCode) (r : Result) (s : State) : (emit c r s).rxb = s.rxb := rfl

@[simp] theorem emit_buf (c : CmdCode) (r : Result) (s : State) : (emit c r s).buf = s.buf := rfl

@[simp] theorem emit_seq (c : CmdCode) (r : Result) (s : State) : (emit c r s).seq = s.seq := rfl

@[simp] theorem emit_busy (c : CmdCode) (r : Result) (s : State) : (emit c r s).busy = s.busy := rfl

@[simp] theorem emit_opr (c : CmdCode) (r : Result) (s : State) : (emit c r s).opr = s.opr := rfl

@[simp] theorem emit_frameNo (c : CmdCode) (r : Result) (s : State) : (emit c r s).frameNo = s.frameNo := rfl

@[simp] theorem emit_life (c : CmdCode) (r : Result) (s : State) : (emit c r s).life = s.life := rfl

@[simp] theorem emit_oracle (c : CmdCode) (r : Result) (s : State) : (emit c r s).oracle = s.oracle := rfl

@[simp] theorem emit_host (c : CmdCode) (r : Result) (s : State) : (emit c r s).host = s.host := rfl

@[simp] theorem emit_trace (c : CmdCode) (r : Result) (s : State) : (emit c r s).trace = s.trace ++ [.result c r.valid r.data] := rfl

/-! ### A sample of the manual strategy -/

@[simp] theorem shiftSample_mode (i : Fin 32) (s : State) : (shiftSample i s).mode = s.mode := rfl

@[simp] theorem shiftSample_csId (i : Fin 32) (s : State) : (shiftSample i s).csId = s.csId := rfl

@[simp] theorem shiftSample_clkId (i : Fin 32) (s : State) : (shiftSample i s).clkId = s.clkId := rfl

@[simp] theorem shiftSample_misoId (i : Fin 32) (s : State) : (shiftSample i s).misoId = s.misoId := rfl

@[simp] theorem shiftSample_bus (i : Fin 32) (s : State) : (shiftSample i s).bus = s.bus := rfl

@[simp] theorem shiftSample_cs (i : Fin 32) (s : State) : (shiftSample i s).cs = s.cs := rfl

@[simp] theorem shiftSample_sck (i : Fin 32) (s : State) : (shiftSample i s).sck = s.sck := rfl

@[simp] theorem shiftSample_mosi (i : Fin 32) (s : State) : (shiftSample i s).mosi = s.mosi := rfl

@[simp] theorem shiftSample_rxb (i : Fin 32) (s : State) : (shiftSample i s).rxb = s.rxb := rfl

@[simp] theorem shiftSample_buf (i : Fin 32) (s : State) : (shiftSample i s).buf = s.buf := rfl

@[simp] theorem shiftSample_seq (i : Fin 32) (s : State) : (shiftSample i s).seq = s.seq := rfl

@[simp] theorem shiftSample_busy (i : Fin 32) (s : State) : (shiftSample i s).busy = s.busy := rfl

@[simp] theorem shiftSample_opr (i : Fin 32) (s : State) : (shiftSample i s).opr = s.opr := rfl

@[simp] theorem shiftSample_frameNo (i : Fin 32) (s : State) : (shiftSample i s).frameNo = s.frameNo := rfl

@[simp] theorem shiftSample_life (i : Fin 32) (s : State) : (shiftSample i s).life = s.life := rfl

@[simp] theorem shiftSample_oracle (i : Fin 32) (s : State) : (shiftSample i s).oracle = s.oracle := rfl

@[simp] theorem shiftSample_host (i : Fin 32) (s : State) : (shiftSample i s).host = s.host := rfl

@[simp] theorem shiftSample_acc (i : Fin 32) (s : State) :
    (shiftSample i s).acc = (s.acc <<< 1) ||| (BitVec.ofBool (s.sample i)).setWidth 32 := rfl

@[simp] theorem shiftSample_trace (i : Fin 32) (s : State) : (shiftSample i s).trace = s.trace ++ [.sample (s.sample i)] := rfl

/-! ### A sample of the hardware strategy -/

@[simp] theorem riseSample_mode (i : Fin 32) (s : State) : (riseSample i s).mode = s.mode := rfl

@[simp] theorem riseSample_csId (i : Fin 32) (s : State) : (riseSample i s).csId = s.csId := rfl

@[simp] theorem riseSample_clkId (i : Fin 32) (s : State) : (riseSample i s).clkId = s.clkId := rfl

@[simp] theorem riseSample_misoId (i : Fin 32) (s : State) : (riseSample i s).misoId = s.misoId := rfl

@[simp] theorem riseSample_bus (i : Fin 32) (s : State) : (riseSample i s).bus = s.bus := rfl

@[simp] theorem riseSample_cs (i : Fin 32) (s : State) : (riseSample i s).cs = s.cs := rfl

@[simp] theorem riseSample_mosi (i : Fin 32) (s : State) : (riseSample i s).mosi = s.mosi := rfl

@[simp] theorem riseSample_acc (i : Fin 32) (s : State) : (riseSample i s).acc = s.acc := rfl

@[simp] theorem riseSample_buf (i : Fin 32) (s : State) : (riseSample i s).buf = s.buf := rfl

@[simp] theorem riseSample_seq (i : Fin 32) (s : State) : (riseSample i s).seq = s.seq := rfl

@[simp] theorem riseSample_busy (i : Fin 32) (s : State) : (riseSample i s).busy = s.busy := rfl

@[simp] theorem riseSample_opr (i : Fin 32) (s : State) : (riseSample i s).opr = s.opr := rfl

@[simp] theorem riseSample_frameNo (i : Fin 32) (s : State) : (riseSample i s).frameNo = s.frameNo := rfl

@[simp] theorem riseSample_life (i : Fin 32) (s : State) : (riseSample i s).life = s.life := rfl

@[simp] theorem riseSample_oracle (i : Fin 32) (s : State) : (riseSample i s).oracle = s.oracle := rfl

@[simp] theorem riseSample_host (i : Fin 32) (s : State) : (riseSample i s).host = s.host := rfl

@[simp] theorem riseSample_sck (i : Fin 32) (s : State) : (riseSample i s).sck = true := rfl

@[simp] theorem riseSample_rxb (i : Fin 32) (s : State) :
    (riseSample i s).rxb = (s.rxb <<< 1) ||| (BitVec.ofBool (s.sample i)).setWidth 8 := rfl

@[simp] theorem riseSample_trace (i : Fin 32) (s : State) :
    (riseSample i s).trace = s.trace ++ [.write .sck true, .sample (s.sample i)] := by
  simp [riseSample, lineRead, State.log, lineWrite, State.sample, State.sampleAt]

/-! ### Placing a byte -/

@[simp] theorem placeByte_mode (k : Fin 4) (s : State) : (placeByte k s).mode = s.mode := rfl

@[simp] theorem placeByte_csId (k : Fin 4) (s : State) : (placeByte k s).csId = s.csId := rfl

@[simp] theorem placeByte_clkId (k : Fin 4) (s : State) : (placeByte k s).clkId = s.clkId := rfl

@[simp] theorem placeByte_misoId (k : Fin 4) (s : State) : (placeByte k s).misoId = s.misoId := rfl

@[simp] theorem placeByte_bus (k : Fin 4) (s : State) : (placeByte k s).bus = s.bus := rfl

@[simp] theorem placeByte_cs (k : Fin 4) (s : State) : (placeByte k s).cs = s.cs := rfl

@[simp] theorem placeByte_sck (k : Fin 4) (s : State) : (placeByte k s).sck = s.sck := rfl

@[simp] theorem placeByte_mosi (k : Fin 4) (s : State) : (placeByte k s).mosi = s.mosi := rfl

@[simp] theorem placeByte_acc (k : Fin 4) (s : State) : (placeByte k s).acc = s.acc := rfl

@[simp] theorem placeByte_rxb (k : Fin 4) (s : State) : (placeByte k s).rxb = s.rxb := rfl

@[simp] theorem placeByte_seq (k : Fin 4) (s : State) : (placeByte k s).seq = s.seq := rfl

@[simp] theorem placeByte_busy (k : Fin 4) (s : State) : (placeByte k s).busy = s.busy := rfl

@[simp] theorem placeByte_opr (k : Fin 4) (s : State) : (placeByte k s).opr = s.opr := rfl

@[simp] theorem placeByte_frameNo (k : Fin 4) (s : State) : (placeByte k s).frameNo = s.frameNo := rfl

@[simp] theorem placeByte_trace (k : Fin 4) (s : State) : (placeByte k s).trace = s.trace := rfl

@[simp] theorem placeByte_life (k : Fin 4) (s : State) : (placeByte k s).life = s.life := rfl

@[simp] theorem placeByte_oracle (k : Fin 4) (s : State) : (placeByte k s).oracle = s.oracle := rfl

@[simp] theorem placeByte_host (k : Fin 4) (s : State) : (placeByte k s).host = s.host := rfl

@[simp] theorem placeByte_buf (k : Fin 4) (s : State) : (placeByte k s).buf = s.buf.set (3 - k.val) s.rxb (by omega) := rfl

/-! ### A falling edge of the byte engine -/

@[simp] theorem fall_mode (k : Fin 4) (j : Fin 8) (s : State) : (fall k j s).mode = s.mode := by
  unfold fall; split <;> rfl

@[simp] theorem fall_csId (k : Fin 4) (j : Fin 8) (s : State) : (fall k j s).csId = s.csId := by
  unfold fall; split <;> rfl

@[simp] theorem fall_clkId (k : Fin 4) (j : Fin 8) (s : State) : (fall k j s).clkId = s.clkId := by
  unfold fall; split <;> rfl

@[simp] theorem fall_misoId (k : Fin 4) (j : Fin 8) (s : State) : (fall k j s).misoId = s.misoId := by
  unfold fall; split <;> rfl

@[simp] theorem fall_bus (k : Fin 4) (j : Fin 8) (s : State) : (fall k j s).bus = s.bus := by
  unfold fall; split <;> rfl

@[simp] theorem fall_cs (k : Fin 4) (j : Fin 8) (s : State) : (fall k j s).cs = s.cs := by
  unfold fall; split <;> rfl

@[simp] theorem fall_mosi (k : Fin 4) (j : Fin 8) (s : State) : (fall k j s).mosi = s.mosi := by
  unfold fall; split <;> rfl

@[simp] theorem fall_acc (k : Fin 4) (j : Fin 8) (s : State) : (fall k j s).acc = s.acc := by
  unfold fall; split <;> rfl

@[simp] theorem fall_rxb (k : Fin 4) (j : Fin 8) (s : State) : (fall k j s).rxb = s.rxb := by
  unfold fall; split <;> rfl

@[simp] theorem fall_seq (k : Fin 4) (j : Fin 8) (s : State) : (fall k j s).seq = s.seq := by
  unfold fall; split <;> rfl

@[simp] theorem fall_busy (k : Fin 4) (j : Fin 8) (s : State) : (fall k j s).busy = s.busy := by
  unfold fall; split <;> rfl

@[simp] theorem fall_opr (k : Fin 4) (j : Fin 8) (s : State) : (fall k j s).opr = s.opr := by
  unfold fall; split <;> rfl

@[simp] theorem fall_frameNo (k : Fin 4) (j : Fin 8) (s : State) : (fall k j s).frameNo = s.frameNo := by
  unfold fall; split <;> rfl

@[simp] theorem fall_life (k : Fin 4) (j : Fin 8) (s : State) : (fall k j s).life = s.life := by
  unfold fall; split <;> rfl

@[simp] theorem fall_oracle (k : Fin 4) (j : Fin 8) (s : State) : (fall k j s).oracle = s.oracle := by
  unfold fall; split <;> rfl

@[simp] theorem fall_host (k : Fin 4) (j : Fin 8) (s : State) : (fall k j s).host = s.host := by
  unfold fall; split <;> rfl

@[simp] theorem fall_sck (k : Fin 4) (j : Fin 8) (s : State) : (fall k j s).sck = false := by
  unfold fall; split <;> rfl

@[simp] theorem fall_trace (k : Fin 4) (j : Fin 8) (s : State) : (fall k j s).trace = s.trace ++ [.write .sck false] := by
  unfold fall; split <;> rfl

@[simp] theorem fall_buf (k : Fin 4) (j : Fin 8) (s : State) :
    (fall k j s).buf = if j = 7 then s.buf.set (3 - k.val) s.rxb (by omega) else s.buf := by
  unfold fall; split <;> rfl

/-! ### The first step of an acquisition -/

@[simp] theorem openAcquisition_mode (p : Pos) (s : State) : (openAcquisition p s).mode = s.mode := by
  unfold openAcquisition; split <;> rfl

@[simp] theorem openAcquisition_csId (p : Pos) (s : State) : (openAcquisition p s).csId = s.csId := by
  unfold openAcquisition; split <;> rfl

@[simp] theorem openAcquisition_clkId (p : Pos) (s : State) : (openAcquisition p s).clkId = s.clkId := by
  unfold openAcquisition; split <;> rfl

@[simp] theorem openAcquisition_misoId (p : Pos) (s : State) : (openAcquisition p s).misoId = s.misoId := by
  unfold openAcquisition; split <;> rfl

@[simp] theorem openAcquisition_bus (p : Pos) (s : State) : (openAcquisition p s).bus = s.bus := by
  unfold openAcquisition; split <;> rfl

@[simp] theorem openAcquisition_cs (p : Pos) (s : State) : (openAcquisition p s).cs = s.cs := by
  unfold openAcquisition; split <;> rfl

@[simp] theorem openAcquisition_sck (p : Pos) (s : State) : (openAcquisition p s).sck = s.sck := by
  unfold openAcquisition; split <;> rfl

@[simp] theorem openAcquisition_mosi (p : Pos) (s : State) : (openAcquisition p s).mosi = s.mosi := by
  unfold openAcquisition; split <;> rfl

@[simp] theorem openAcquisition_rxb (p : Pos) (s : State) : (openAcquisition p s).rxb = s.rxb := by
  unfold openAcquisition; split <;> rfl

@[simp] theorem openAcquisition_buf (p : Pos) (s : State) : (openAcquisition p s).buf = s.buf := by
  unfold openAcquisition; split <;> rfl

@[simp] theorem openAcquisition_seq (p : Pos) (s : State) : (openAcquisition p s).seq = s.seq := by
  unfold openAcquisition; split <;> rfl

@[simp] theorem openAcquisition_busy (p : Pos) (s : State) : (openAcquisition p s).busy = s.busy := by
  unfold openAcquisition; split <;> rfl

@[simp] theorem openAcquisition_opr (p : Pos) (s : State) : (openAcquisition p s).opr = s.opr := by
  unfold openAcquisition; split <;> rfl

@[simp] theorem openAcquisition_trace (p : Pos) (s : State) : (openAcquisition p s).trace = s.trace := by
  unfold openAcquisition; split <;> rfl

@[simp] theorem openAcquisition_life (p : Pos) (s : State) : (openAcquisition p s).life = s.life := by
  unfold openAcquisition; split <;> rfl

@[simp] theorem openAcquisition_oracle (p : Pos) (s : State) : (openAcquisition p s).oracle = s.oracle := by
  unfold openAcquisition; split <;> rfl

@[simp] theorem openAcquisition_host (p : Pos) (s : State) : (openAcquisition p s).host = s.host := by
  unfold openAcquisition; split <;> rfl

/-! ### Acceptance of a command -/

@[simp] theorem accept_mode (c : CmdCode) (s : State) : (accept c s).mode = s.mode := rfl

@[simp] theorem accept_csId (c : CmdCode) (s : State) : (accept c s).csId = s.csId := rfl

@[simp] theorem accept_clkId (c : CmdCode) (s : State) : (accept c s).clkId = s.clkId := rfl

@[simp] theorem accept_misoId (c : CmdCode) (s : State) : (accept c s).misoId = s.misoId := rfl

@[simp] theorem accept_bus (c : CmdCode) (s : State) : (accept c s).bus = s.bus := rfl

@[simp] theorem accept_cs (c : CmdCode) (s : State) : (accept c s).cs = s.cs := rfl

@[simp] theorem accept_sck (c : CmdCode) (s : State) : (accept c s).sck = s.sck := rfl

@[simp] theorem accept_mosi (c : CmdCode) (s : State) : (accept c s).mosi = s.mosi := rfl

@[simp] theorem accept_acc (c : CmdCode) (s : State) : (accept c s).acc = s.acc := rfl

@[simp] theorem accept_rxb (c : CmdCode) (s : State) : (accept c s).rxb = s.rxb := rfl

@[simp] theorem accept_buf (c : CmdCode) (s : State) : (accept c s).buf = s.buf := rfl

@[simp] theorem accept_frameNo (c : CmdCode) (s : State) : (accept c s).frameNo = s.frameNo := rfl

@[simp] theorem accept_trace (c : CmdCode) (s : State) : (accept c s).trace = s.trace := rfl

@[simp] theorem accept_life (c : CmdCode) (s : State) : (accept c s).life = s.life := rfl

@[simp] theorem accept_oracle (c : CmdCode) (s : State) : (accept c s).oracle = s.oracle := rfl

@[simp] theorem accept_host (c : CmdCode) (s : State) : (accept c s).host = s.host := rfl

@[simp] theorem accept_opr (c : CmdCode) (s : State) : (accept c s).opr = c := rfl

@[simp] theorem accept_busy (c : CmdCode) (s : State) : (accept c s).busy = true := rfl

@[simp] theorem accept_seq (c : CmdCode) (s : State) : (accept c s).seq = Pos.first s.mode := rfl

/-! ### Delivery of a result -/

@[simp] theorem deliver_mode (r : Result) (s : State) : (deliver r s).mode = s.mode := rfl

@[simp] theorem deliver_csId (r : Result) (s : State) : (deliver r s).csId = s.csId := rfl

@[simp] theorem deliver_clkId (r : Result) (s : State) : (deliver r s).clkId = s.clkId := rfl

@[simp] theorem deliver_misoId (r : Result) (s : State) : (deliver r s).misoId = s.misoId := rfl

@[simp] theorem deliver_bus (r : Result) (s : State) : (deliver r s).bus = s.bus := rfl

@[simp] theorem deliver_cs (r : Result) (s : State) : (deliver r s).cs = s.cs := rfl

@[simp] theorem deliver_sck (r : Result) (s : State) : (deliver r s).sck = s.sck := rfl

@[simp] theorem deliver_mosi (r : Result) (s : State) : (deliver r s).mosi = s.mosi := rfl

@[simp] theorem deliver_acc (r : Result) (s : State) : (deliver r s).acc = s.acc := rfl

@[simp] theorem deliver_rxb (r : Result) (s : State) : (deliver r s).rxb = s.rxb := rfl

@[simp] theorem deliver_buf (r : Result) (s : State) : (deliver r s).buf = s.buf := rfl

@[simp] theorem deliver_opr (r : Result) (s : State) : (deliver r s).opr = s.opr := rfl

@[simp] theorem deliver_frameNo (r : Result) (s : State) : (deliver r s).frameNo = s.frameNo := rfl

@[simp] theorem deliver_life (r : Result) (s : State) : (deliver r s).life = s.life := rfl

@[simp] theorem deliver_oracle (r : Result) (s : State) : (deliver r s).oracle = s.oracle := rfl

@[simp] theorem deliver_host (r : Result) (s : State) : (deliver r s).host = s.host := rfl

@[simp] theorem deliver_busy (r : Result) (s : State) : (deliver r s).busy = false := rfl

@[simp] theorem deliver_seq (r : Result) (s : State) : (deliver r s).seq = .idle := rfl

@[simp] theorem deliver_trace (r : Result) (s : State) :
    (deliver r s).trace = s.trace ++ [.result s.opr r.valid r.data] := rfl

/-! ### Construction -/

@[simp] theorem construct_mode (m : Mode) (clk cs miso : LineId) (s : State) :
    (construct m clk cs miso s).mode = m := rfl

@[simp] theorem construct_csId (m : Mode) (clk cs miso : LineId) (s : State) :
    (construct m clk cs miso s).csId = cs := rfl

@[simp] theorem construct_cs (m : Mode) (clk cs miso : LineId) (s : State) :
    (construct m clk cs miso s).cs = true := rfl

@[simp] theorem construct_sck (m : Mode) (clk cs miso : LineId) (s : State) :
    (construct m clk cs miso s).sck = false := rfl

@[simp] theorem construct_acc (m : Mode) (clk cs miso : LineId) (s : State) :
    (construct m clk cs miso s).acc = 0#32 := rfl

@[simp] theorem construct_rxb (m : Mode) (clk cs miso : LineId) (s : State) :
    (construct m clk cs miso s).rxb = 0#8 := rfl

@[simp] theorem construct_buf (m : Mode) (clk cs miso : LineId) (s : State) :
    (construct m clk cs miso s).buf = #v[0#8, 0#8, 0#8, 0#8] := rfl

@[simp] theorem construct_seq (m : Mode) (clk cs miso : LineId) (s : State) :
    (construct m clk cs miso s).seq = .idle := rfl

@[simp] theorem construct_busy (m : Mode) (clk cs miso : LineId) (s : State) :
    (construct m clk cs miso s).busy = false := rfl

@[simp] theorem construct_opr (m : Mode) (clk cs miso : LineId) (s : State) :
    (construct m clk cs miso s).opr = 0b00#2 := rfl

@[simp] theorem construct_frameNo (m : Mode) (clk cs miso : LineId) (s : State) :
    (construct m clk cs miso s).frameNo = 0 := rfl

@[simp] theorem construct_trace (m : Mode) (clk cs miso : LineId) (s : State) :
    (construct m clk cs miso s).trace = [] := rfl

@[simp] theorem construct_life (m : Mode) (clk cs miso : LineId) (s : State) :
    (construct m clk cs miso s).life = s.life + 1 := rfl

@[simp] theorem construct_oracle (m : Mode) (clk cs miso : LineId) (s : State) :
    (construct m clk cs miso s).oracle = s.oracle.drop s.frameNo := rfl

@[simp] theorem construct_host (m : Mode) (clk cs miso : LineId) (s : State) :
    (construct m clk cs miso s).host = s.host := rfl

@[simp] theorem construct_manual_clkId (clk cs miso : LineId) (s : State) : (construct .manual clk cs miso s).clkId = some clk := rfl

@[simp] theorem construct_manual_misoId (clk cs miso : LineId) (s : State) : (construct .manual clk cs miso s).misoId = some miso := rfl

@[simp] theorem construct_manual_bus (clk cs miso : LineId) (s : State) : (construct .manual clk cs miso s).bus = none := rfl

@[simp] theorem construct_manual_mosi (clk cs miso : LineId) (s : State) : (construct .manual clk cs miso s).mosi = none := rfl

@[simp] theorem construct_hardware_clkId (clk cs miso : LineId) (s : State) : (construct .hardware clk cs miso s).clkId = none := rfl

@[simp] theorem construct_hardware_misoId (clk cs miso : LineId) (s : State) : (construct .hardware clk cs miso s).misoId = none := rfl

@[simp] theorem construct_hardware_bus (clk cs miso : LineId) (s : State) :
    (construct .hardware clk cs miso s).bus =
      some { bitOrder := .msbFirst, spiMode := .mode0, clkDiv := Config.spiClkDiv } := rfl

@[simp] theorem construct_hardware_mosi (clk cs miso : LineId) (s : State) : (construct .hardware clk cs miso s).mosi = some false := rfl

/-! ### The host's next move -/

@[simp] theorem State.presenting_mode (s : State) (r : Request) : (s.presenting r).mode = s.mode := rfl

@[simp] theorem State.presenting_csId (s : State) (r : Request) : (s.presenting r).csId = s.csId := rfl

@[simp] theorem State.presenting_clkId (s : State) (r : Request) : (s.presenting r).clkId = s.clkId := rfl

@[simp] theorem State.presenting_misoId (s : State) (r : Request) : (s.presenting r).misoId = s.misoId := rfl

@[simp] theorem State.presenting_bus (s : State) (r : Request) : (s.presenting r).bus = s.bus := rfl

@[simp] theorem State.presenting_cs (s : State) (r : Request) : (s.presenting r).cs = s.cs := rfl

@[simp] theorem State.presenting_sck (s : State) (r : Request) : (s.presenting r).sck = s.sck := rfl

@[simp] theorem State.presenting_mosi (s : State) (r : Request) : (s.presenting r).mosi = s.mosi := rfl

@[simp] theorem State.presenting_acc (s : State) (r : Request) : (s.presenting r).acc = s.acc := rfl

@[simp] theorem State.presenting_rxb (s : State) (r : Request) : (s.presenting r).rxb = s.rxb := rfl

@[simp] theorem State.presenting_buf (s : State) (r : Request) : (s.presenting r).buf = s.buf := rfl

@[simp] theorem State.presenting_seq (s : State) (r : Request) : (s.presenting r).seq = s.seq := rfl

@[simp] theorem State.presenting_busy (s : State) (r : Request) : (s.presenting r).busy = s.busy := rfl

@[simp] theorem State.presenting_opr (s : State) (r : Request) : (s.presenting r).opr = s.opr := rfl

@[simp] theorem State.presenting_frameNo (s : State) (r : Request) : (s.presenting r).frameNo = s.frameNo := rfl

@[simp] theorem State.presenting_trace (s : State) (r : Request) : (s.presenting r).trace = s.trace := rfl

@[simp] theorem State.presenting_life (s : State) (r : Request) : (s.presenting r).life = s.life := rfl

@[simp] theorem State.presenting_oracle (s : State) (r : Request) : (s.presenting r).oracle = s.oracle := rfl

@[simp] theorem State.presenting_host (s : State) (r : Request) : (s.presenting r).host = .request r :: s.host := rfl

/-! ### Any micro-operation -/

@[simp] theorem MicroOp.perform_mode (o : MicroOp) (s : State) : (o.perform s).mode = s.mode := by
  cases o <;> simp [MicroOp.perform, driveLine, settleDelay]

@[simp] theorem MicroOp.perform_csId (o : MicroOp) (s : State) : (o.perform s).csId = s.csId := by
  cases o <;> simp [MicroOp.perform, driveLine, settleDelay]

@[simp] theorem MicroOp.perform_clkId (o : MicroOp) (s : State) : (o.perform s).clkId = s.clkId := by
  cases o <;> simp [MicroOp.perform, driveLine, settleDelay]

@[simp] theorem MicroOp.perform_misoId (o : MicroOp) (s : State) : (o.perform s).misoId = s.misoId := by
  cases o <;> simp [MicroOp.perform, driveLine, settleDelay]

@[simp] theorem MicroOp.perform_bus (o : MicroOp) (s : State) : (o.perform s).bus = s.bus := by
  cases o <;> simp [MicroOp.perform, driveLine, settleDelay]

@[simp] theorem MicroOp.perform_seq (o : MicroOp) (s : State) : (o.perform s).seq = s.seq := by
  cases o <;> simp [MicroOp.perform, driveLine, settleDelay]

@[simp] theorem MicroOp.perform_busy (o : MicroOp) (s : State) : (o.perform s).busy = s.busy := by
  cases o <;> simp [MicroOp.perform, driveLine, settleDelay]

@[simp] theorem MicroOp.perform_opr (o : MicroOp) (s : State) : (o.perform s).opr = s.opr := by
  cases o <;> simp [MicroOp.perform, driveLine, settleDelay]

@[simp] theorem MicroOp.perform_frameNo (o : MicroOp) (s : State) : (o.perform s).frameNo = s.frameNo := by
  cases o <;> simp [MicroOp.perform, driveLine, settleDelay]

@[simp] theorem MicroOp.perform_life (o : MicroOp) (s : State) : (o.perform s).life = s.life := by
  cases o <;> simp [MicroOp.perform, driveLine, settleDelay]

@[simp] theorem MicroOp.perform_oracle (o : MicroOp) (s : State) : (o.perform s).oracle = s.oracle := by
  cases o <;> simp [MicroOp.perform, driveLine, settleDelay]

@[simp] theorem MicroOp.perform_host (o : MicroOp) (s : State) : (o.perform s).host = s.host := by
  cases o <;> simp [MicroOp.perform, driveLine, settleDelay]

/-! ### One step of the sequencer -/

@[simp] theorem sequencerStep_mode (s : State) : (sequencerStep s).mode = s.mode := by
  unfold sequencerStep; split <;> simp

@[simp] theorem sequencerStep_csId (s : State) : (sequencerStep s).csId = s.csId := by
  unfold sequencerStep; split <;> simp

@[simp] theorem sequencerStep_clkId (s : State) : (sequencerStep s).clkId = s.clkId := by
  unfold sequencerStep; split <;> simp

@[simp] theorem sequencerStep_misoId (s : State) : (sequencerStep s).misoId = s.misoId := by
  unfold sequencerStep; split <;> simp

@[simp] theorem sequencerStep_bus (s : State) : (sequencerStep s).bus = s.bus := by
  unfold sequencerStep; split <;> simp

@[simp] theorem sequencerStep_busy (s : State) : (sequencerStep s).busy = s.busy := by
  unfold sequencerStep; split <;> simp

@[simp] theorem sequencerStep_opr (s : State) : (sequencerStep s).opr = s.opr := by
  unfold sequencerStep; split <;> simp

@[simp] theorem sequencerStep_life (s : State) : (sequencerStep s).life = s.life := by
  unfold sequencerStep; split <;> simp

@[simp] theorem sequencerStep_oracle (s : State) : (sequencerStep s).oracle = s.oracle := by
  unfold sequencerStep; split <;> simp

@[simp] theorem sequencerStep_host (s : State) : (sequencerStep s).host = s.host := by
  unfold sequencerStep; split <;> simp

/-! ### What the answers of the peer depend on -/

/-- Answers agree where the written-out answers and the life do. -/
theorem State.sampleAt_congr {s t : State} (ho : t.oracle = s.oracle) (hl : t.life = s.life) :
    t.sampleAt = s.sampleAt := by
  funext n i
  simp [State.sampleAt, ho, hl]

/-- So do the frames they make. -/
theorem State.frameAt_congr {s t : State} (ho : t.oracle = s.oracle) (hl : t.life = s.life) :
    t.frameAt = s.frameAt := by
  funext n
  simp [State.frameAt, State.sampleAt_congr ho hl]

end Sys2Proof.Machine
end

