-- ==== Sys2Proof/Laws/Ops.lean ====
section
/-!
SUPPORT. One lemma per shared operation that says once everything it can do: the step of the sequencer, the step of a
read command, the fetch, and the step of the machine.
-/

namespace Sys2Proof.Machine

/-! ### The sequencer -/

/-- Where a micro-operation stands, a step performs it and moves to the successor. -/
theorem sequencerStep_of_op {s : State} {o : MicroOp} (h : s.seq.op = some o) :
    sequencerStep s = { o.perform (openAcquisition s.seq s) with seq := s.seq.next } := by
  simp [sequencerStep, h]

/-- At rest and at the decode position there is no micro-operation, and a step of the sequencer changes nothing. -/
theorem sequencerStep_of_no_op {s : State} (h : s.seq.op = none) : sequencerStep s = s := by
  simp [sequencerStep, h]

/-- Exactly `IDLE` and `DEC` have no micro-operation. -/
theorem Pos.op_eq_none_iff (p : Pos) : p.op = none ↔ p = .idle ∨ p = .dec := by
  cases p <;> simp [Pos.op]

/-- Every step of the sequencer at a position that is neither `IDLE` nor `DEC` moves to the successor. -/
theorem sequencerStep_seq {s : State} (hi : s.seq ≠ .idle) (hd : s.seq ≠ .dec) :
    (sequencerStep s).seq = s.seq.next := by
  obtain ⟨o, ho⟩ : ∃ o, s.seq.op = some o := by
    rw [← Option.ne_none_iff_exists', ne_eq, Pos.op_eq_none_iff]
    simp [hi, hd]
  rw [sequencerStep_of_op ho]

/-- The trace only grows under a micro-operation (R33). -/
theorem MicroOp.perform_trace (o : MicroOp) (s : State) : ∃ es, (o.perform s).trace = s.trace ++ es := by
  cases o <;> simp [MicroOp.perform, driveLine, settleDelay]

/-- The trace only grows under a step of the sequencer (R33). -/
theorem sequencerStep_trace (s : State) : ∃ es, (sequencerStep s).trace = s.trace ++ es := by
  unfold sequencerStep
  split
  · exact ⟨[], by simp⟩
  · simpa using MicroOp.perform_trace _ (openAcquisition s.seq s)

/-! ### A read command -/

/-- The opcode map (R73): the instruction of a code runs as the read command of that code and its decode. -/
theorem exec_decodeCommand (c : CmdCode) (s : State) :
    exec (decodeCommand c) s = readCommand c (resultFor c) s := by
  obtain ⟨⟨n, hn⟩⟩ := c
  interval_cases n <;> rfl

/-- The instructions of the command port are those of the four codes. -/
theorem Instr.exists_code {i : Instr} (h : i.isCommand = true) : ∃ c, i = decodeCommand c := by
  cases i with
  | readInternal => exact ⟨0, rfl⟩
  | readCelsius => exact ⟨1, rfl⟩
  | readFahrenheit => exact ⟨2, rfl⟩
  | readError => exact ⟨3, rfl⟩
  | constructManual => simp [Instr.isCommand] at h
  | constructHw => simp [Instr.isCommand] at h

/-- Every instruction of a code is on the command port. -/
theorem isCommand_decodeCommand (c : CmdCode) : (decodeCommand c).isCommand = true := by
  obtain ⟨⟨n, hn⟩⟩ := c
  interval_cases n <;> rfl

variable {c : CmdCode} {result : Frame → Result} {s t : State}

/-- At rest a read command is accepted. -/
theorem readCommand_at_rest (h : s.busy = false) : readCommand c result s = .next (accept c s) := by
  simp [readCommand, h]

/-- A running read command makes the step at `SEQ`. -/
theorem readCommand_running (h : s.busy = true) (ho : s.opr = c) (hd : s.seq ≠ .dec) :
    readCommand c result s = .next (sequencerStep s) := by
  simp [readCommand, h, ho, hd]

/-- A running read command delivers at `DEC`. -/
theorem readCommand_at_dec (h : s.busy = true) (ho : s.opr = c) (hd : s.seq = .dec) :
    readCommand c result s = .next (deliver (result s.acquired) s) := by
  simp [readCommand, h, ho, hd]

/-- Everything a read command can do when it answers a next state. -/
theorem readCommand_cases (h : readCommand c result s = .next t) :
    (s.busy = false ∧ t = accept c s) ∨
    (s.busy = true ∧ s.opr = c ∧ s.seq ≠ .dec ∧ t = sequencerStep s) ∨
    (s.busy = true ∧ s.opr = c ∧ s.seq = .dec ∧ t = deliver (result s.acquired) s) := by
  unfold readCommand at h
  split at h
  · rename_i hb
    split at h
    · rename_i ho
      split at h
      · rename_i hd
        exact .inr (.inr ⟨hb, ho, hd, by simpa using h.symm⟩)
      · rename_i hd
        exact .inr (.inl ⟨hb, ho, hd, by simpa using h.symm⟩)
    · simp at h
  · rename_i hb
    exact .inl ⟨by simpa using hb, by simpa using h.symm⟩

/-- A read command never faults, and is refused only while another command runs (R149). -/
theorem readCommand_refused {r : Refusal} (h : readCommand c result s = .refused r) :
    r = .commandWhileBusy ∧ s.busy = true ∧ s.opr ≠ c := by
  unfold readCommand at h
  split at h
  · rename_i hb
    split at h
    · split at h <;> simp at h
    · rename_i ho
      simp only [Host.Outcome.refused.injEq] at h
      exact ⟨h.symm, hb, ho⟩
  · simp at h

/-! ### The step of the machine -/

/-- The host's move for one step is taken off its list. -/
def State.tick (s : State) : State :=
  { s with host := s.host.tail }

@[simp] theorem State.tick_mode (s : State) : s.tick.mode = s.mode := rfl

@[simp] theorem State.tick_csId (s : State) : s.tick.csId = s.csId := rfl

@[simp] theorem State.tick_clkId (s : State) : s.tick.clkId = s.clkId := rfl

@[simp] theorem State.tick_misoId (s : State) : s.tick.misoId = s.misoId := rfl

@[simp] theorem State.tick_bus (s : State) : s.tick.bus = s.bus := rfl

@[simp] theorem State.tick_cs (s : State) : s.tick.cs = s.cs := rfl

@[simp] theorem State.tick_sck (s : State) : s.tick.sck = s.sck := rfl

@[simp] theorem State.tick_mosi (s : State) : s.tick.mosi = s.mosi := rfl

@[simp] theorem State.tick_acc (s : State) : s.tick.acc = s.acc := rfl

@[simp] theorem State.tick_rxb (s : State) : s.tick.rxb = s.rxb := rfl

@[simp] theorem State.tick_buf (s : State) : s.tick.buf = s.buf := rfl

@[simp] theorem State.tick_seq (s : State) : s.tick.seq = s.seq := rfl

@[simp] theorem State.tick_busy (s : State) : s.tick.busy = s.busy := rfl

@[simp] theorem State.tick_opr (s : State) : s.tick.opr = s.opr := rfl

@[simp] theorem State.tick_frameNo (s : State) : s.tick.frameNo = s.frameNo := rfl

@[simp] theorem State.tick_trace (s : State) : s.tick.trace = s.trace := rfl

@[simp] theorem State.tick_life (s : State) : s.tick.life = s.life := rfl

@[simp] theorem State.tick_oracle (s : State) : s.tick.oracle = s.oracle := rfl

@[simp] theorem State.tick_host (s : State) : s.tick.host = s.host.tail := rfl

/-- While a command runs and the host is quiet, a step is a step of that command. -/
theorem step_running (hb : s.busy = true) (hq : s.host.getD 0 .quiet = .quiet) :
    step s = readCommand s.opr (resultFor s.opr) s.tick := by
  rcases hh : s.host with _ | ⟨m, rest⟩
  · simp [step, fetch, hh, carryOn, hb, exec_decodeCommand, State.tick]
    congr 1
    cases s
    simp_all
  · rw [hh] at hq
    simp only [List.getD_cons_zero] at hq
    simp [step, fetch, hh, hq, carryOn, hb, exec_decodeCommand, State.tick]

/-- At rest and with a quiet host, the block waits. -/
theorem step_waiting (hb : s.busy = false) (hq : s.host.getD 0 .quiet = .quiet) : step s = .next s.tick := by
  rcases hh : s.host with _ | ⟨m, rest⟩
  · simp [step, fetch, hh, carryOn, hb, State.tick]
    cases s
    simp_all
  · rw [hh] at hq
    simp only [List.getD_cons_zero] at hq
    simp [step, fetch, hh, hq, carryOn, hb, State.tick]

/-- At rest a command of the host is accepted (R140). -/
theorem step_accepting {rest : List HostMove} (hb : s.busy = false)
    (hh : s.host = .request (.command c) :: rest) : step s = .next (accept c { s with host := rest }) := by
  simp [step, fetch, hh, present, decode, isCommand_decodeCommand, hb, exec_decodeCommand,
    readCommand_at_rest]

/-- What a strap decodes to is a construction, with the mode of its level (R74). -/
theorem decodeStrap_cases {l : Strap} {ids : List LineId} {i : Instr} (h : decodeStrap l ids = .ok i) :
    (∃ clk cs miso, l = 0#1 ∧ ids = [clk, cs, miso] ∧ i = .constructManual clk cs miso) ∨
    (∃ cs, l = 1#1 ∧ ids = [cs] ∧ i = .constructHw cs) := by
  unfold decodeStrap at h
  split at h
  · rename_i clk cs miso hl
    simp only [Except.ok.injEq] at h
    exact .inl ⟨clk, cs, miso, BitVec.eq_of_toNat_eq (by simp [hl]), rfl, h.symm⟩
  · rename_i cs hl
    simp only [Except.ok.injEq] at h
    exact .inr ⟨cs, BitVec.eq_of_toNat_eq (by simp [hl]), rfl, h.symm⟩
  · simp at h

/-- Everything a step can do when it answers a next state: wait, accept a command, make the step at `SEQ`, deliver, or
construct. -/
theorem step_cases (h : step s = .next t) :
    (s.busy = false ∧ t = s.tick) ∨
    (∃ c rest, s.busy = false ∧ s.host = .request (.command c) :: rest ∧ t = accept c s.tick) ∨
    (s.busy = true ∧ s.seq ≠ .dec ∧ t = sequencerStep s.tick) ∨
    (s.busy = true ∧ s.seq = .dec ∧ t = deliver (resultFor s.opr s.acquired) s.tick) ∨
    (∃ l ids rest m clk cs miso, s.host = .request (.strap l ids) :: rest ∧
      t = construct m clk cs miso s.tick) := by
  by_cases hq : s.host.getD 0 .quiet = .quiet
  · rcases hb : s.busy with _ | _
    · rw [step_waiting hb hq] at h
      exact .inl ⟨rfl, by simpa using h.symm⟩
    · rw [step_running hb hq] at h
      obtain ⟨hb', -⟩ | ⟨-, -, hd, ht⟩ | ⟨-, -, hd, ht⟩ := readCommand_cases h
      · simp [State.tick, hb] at hb'
      · exact .inr (.inr (.inl ⟨rfl, hd, ht⟩))
      · exact .inr (.inr (.inr (.inl ⟨rfl, hd, ht⟩)))
  · rcases hh : s.host with _ | ⟨_ | r, rest⟩
    · simp [hh] at hq
    · simp [hh] at hq
    · rcases r with c | ⟨l, ids⟩
      · rcases hb : s.busy with _ | _
        · rw [step_accepting hb hh] at h
          exact .inr (.inl ⟨c, rest, rfl, rfl, by simpa [State.tick, hh] using h.symm⟩)
        · simp [step, fetch, hh, present, decode, isCommand_decodeCommand, hb] at h
      · refine .inr (.inr (.inr (.inr ⟨l, ids, rest, ?_⟩)))
        rcases hd : decodeStrap l ids with e | i
        · simp [step, fetch, hh, present, decode, hd] at h
        · obtain ⟨clk, cs, miso, -, -, rfl⟩ | ⟨cs, -, -, rfl⟩ := decodeStrap_cases hd
          · exact ⟨.manual, clk, cs, miso, rfl, by
              simpa [step, fetch, hh, present, decode, hd, Instr.isCommand, exec, execConstructManual,
                State.tick] using h.symm⟩
          · exact ⟨.hardware, cs, cs, cs, rfl, by
              simpa [step, fetch, hh, present, decode, hd, Instr.isCommand, exec, execConstructHw,
                State.tick] using h.symm⟩

end Sys2Proof.Machine
end

