-- ==== Sys2Proof/Laws/PerInstr.lean ====
section
/-!
SUPPORT. Per-instruction statements about the operations as syntax: each is presented on the port its format names, with
a byte that fits the port, and decodes from that byte to itself (`30_encoding.md` R72 to R74).
-/

namespace Sys2Proof.Laws.RoundTrip

/-- An operation decodes from the byte it puts on its port, and that byte fits the port's width. -/
def Statement (i : Instr) : Prop :=
  decodeBytes (encode i).port [(encode i).byte] (encode i).ids = .ok i ∧
  (encode i).byte.toNat < (if i.isCommand then 4 else 2)

theorem readInternal : Statement .readInternal :=
  ⟨rfl, of_decide_eq_true rfl⟩

theorem readCelsius : Statement .readCelsius :=
  ⟨rfl, of_decide_eq_true rfl⟩

theorem readFahrenheit : Statement .readFahrenheit :=
  ⟨rfl, of_decide_eq_true rfl⟩

theorem readError : Statement .readError :=
  ⟨rfl, of_decide_eq_true rfl⟩

theorem constructManual (clk cs miso : LineId) : Statement (.constructManual clk cs miso) :=
  ⟨rfl, of_decide_eq_true rfl⟩

theorem constructHw (cs : LineId) : Statement (.constructHw cs) :=
  ⟨rfl, of_decide_eq_true rfl⟩

end Sys2Proof.Laws.RoundTrip
end

