-- ==== Sys2Proof/Laws/Run.lean ====
section
/-!
SUPPORT. Runs of the machine: their steps, their concatenation, and the induction that carries an invariant along one.
-/

namespace Sys2Proof.Machine

theorem run_zero (s : State) : run 0 s = .next s := rfl

/-- A run whose first step answers a next state goes on from there. -/
theorem run_succ_of_step {n : Nat} {s t : State} (h : step s = .next t) : run (n + 1) s = run n t := by
  have h' : Sys2Proof.core.step s = .next t := h
  simp only [run, Host.Core.run, h']
  rfl

/-- A run whose first step is refused is refused. -/
theorem run_succ_of_refused {n : Nat} {s : State} {r : Refusal} (h : step s = .refused r) :
    run (n + 1) s = .refused r := by
  have h' : Sys2Proof.core.step s = .refused r := h
  simp only [run, Host.Core.run, h']
  rfl

/-- A run that answers a next state made a first step that did. -/
theorem step_of_run_succ {n : Nat} {s t : State} (h : run (n + 1) s = .next t) :
    ∃ u, step s = .next u ∧ run n u = .next t := by
  rcases hs : step s with u | r | r
  · exact ⟨u, rfl, by rwa [run_succ_of_step hs] at h⟩
  · exact nomatch r
  · rw [run_succ_of_refused hs] at h
    cases h

/-- Runs are put together. -/
theorem run_add_of_run {m n : Nat} {s t : State} (h : run m s = .next t) : run (m + n) s = run n t := by
  induction m generalizing s with
  | zero =>
    cases h
    rw [Nat.zero_add]
  | succ m ih =>
    obtain ⟨u, hu, hr⟩ := step_of_run_succ h
    rw [show m + 1 + n = m + n + 1 by omega, run_succ_of_step hu, ih hr]

/-- The induction over a run, once: what every step keeps holds at the end of every run. -/
theorem run_keeps {Inv : State → Prop} (hstep : ∀ s t, Inv s → step s = .next t → Inv t)
    {n : Nat} {s t : State} (hs : Inv s) (h : run n s = .next t) : Inv t := by
  induction n generalizing s with
  | zero =>
    cases h
    exact hs
  | succ n ih =>
    obtain ⟨u, hu, hr⟩ := step_of_run_succ h
    exact ih (hstep s u hs hu) hr

/-- Quiet for longer is quiet for shorter. -/
theorem quietFor_of_le {m n : Nat} {h : List HostMove} (hmn : m ≤ n) (hq : quietFor n h) : quietFor m h :=
  fun k hk => hq k (Nat.lt_of_lt_of_le hk hmn)

/-- After one quiet move, quiet for the rest. -/
theorem quietFor_tail {n : Nat} {h : List HostMove} (hq : quietFor (n + 1) h) : quietFor n h.tail := by
  intro k hk
  rcases h with _ | ⟨m, rest⟩
  · simp
  · simpa using hq (k + 1) (by omega)

/-- The first of the quiet moves is quiet. -/
theorem quietFor_head {n : Nat} {h : List HostMove} (hq : quietFor (n + 1) h) : h.getD 0 .quiet = .quiet :=
  hq 0 (by omega)

end Sys2Proof.Machine
end

