-- ==== Sys2Proof/Laws/Sequence.lean ====
section
/-!
SUPPORT. One lemma per position of the sequencer: the step there, written out (R96 to R107). And one lemma per table of
positions in Safety: what moving to the successor does to it.
-/

namespace Sys2Proof.Machine

variable {s : State}

/-- The step at `m1a`. -/
theorem sequencerStep_at_m1a (h : s.seq = .m1a) : sequencerStep s =
    { s with
      frameNo := s.frameNo + 1
      acc := 0#32
      sck := false
      seq := .m1b
      trace := s.trace ++ [.write .sck false] } := by
  rcases s with ⟨⟩
  subst h
  rfl

/-- The step at `m1b`. -/
theorem sequencerStep_at_m1b (h : s.seq = .m1b) : sequencerStep s =
    { s with
      seq := .m1c
      trace := s.trace ++ [.delay] } := by
  rcases s with ⟨⟩
  subst h
  rfl

/-- The step at `m1c`. -/
theorem sequencerStep_at_m1c (h : s.seq = .m1c) : sequencerStep s =
    { s with
      cs := false
      seq := .m1d
      trace := s.trace ++ [.write .cs false] } := by
  rcases s with ⟨⟩
  subst h
  rfl

/-- The step at `m1d`. -/
theorem sequencerStep_at_m1d (h : s.seq = .m1d) : sequencerStep s =
    { s with
      seq := .m2a 0
      trace := s.trace ++ [.delay] } := by
  rcases s with ⟨⟩
  subst h
  rfl

/-- The step at `m2a i`. -/
theorem sequencerStep_at_m2a {i : Fin 32} (h : s.seq = .m2a i) : sequencerStep s =
    { s with
      sck := false
      seq := .m2b i
      trace := s.trace ++ [.write .sck false] } := by
  rcases s with ⟨⟩
  subst h
  rfl

/-- The step at `m2b i`. -/
theorem sequencerStep_at_m2b {i : Fin 32} (h : s.seq = .m2b i) : sequencerStep s =
    { s with
      seq := .m2c i
      trace := s.trace ++ [.delay] } := by
  rcases s with ⟨⟩
  subst h
  rfl

/-- The step at `m2c i`. -/
theorem sequencerStep_at_m2c {i : Fin 32} (h : s.seq = .m2c i) : sequencerStep s =
    { s with
      acc := (s.acc <<< 1) ||| (BitVec.ofBool (s.sample i)).setWidth 32
      seq := .m2d i
      trace := s.trace ++ [.sample (s.sample i)] } := by
  rcases s with ⟨⟩
  subst h
  rfl

/-- The step at `m2d i`. -/
theorem sequencerStep_at_m2d {i : Fin 32} (h : s.seq = .m2d i) : sequencerStep s =
    { s with
      sck := true
      seq := .m2e i
      trace := s.trace ++ [.write .sck true] } := by
  rcases s with ⟨⟩
  subst h
  rfl

/-- The step at `m2e i`. -/
theorem sequencerStep_at_m2e {i : Fin 32} (h : s.seq = .m2e i) : sequencerStep s =
    { s with
      seq := (Pos.m2e i).next
      trace := s.trace ++ [.delay] } := by
  rcases s with ⟨⟩
  subst h
  rfl

/-- The step at `m3`. -/
theorem sequencerStep_at_m3 (h : s.seq = .m3) : sequencerStep s =
    { s with
      cs := true
      seq := .dec
      trace := s.trace ++ [.write .cs true] } := by
  rcases s with ⟨⟩
  subst h
  rfl

/-- The step at `h2a`. -/
theorem sequencerStep_at_h2a (h : s.seq = .h2a) : sequencerStep s =
    { s with
      frameNo := s.frameNo + 1
      cs := false
      seq := .h2b
      trace := s.trace ++ [.write .cs false] } := by
  rcases s with ⟨⟩
  subst h
  rfl

/-- The step at `h2b`. -/
theorem sequencerStep_at_h2b (h : s.seq = .h2b) : sequencerStep s =
    { s with
      seq := .h3r 0 0
      trace := s.trace ++ [.delay] } := by
  rcases s with ⟨⟩
  subst h
  rfl

/-- The step at `h3r k j`. -/
theorem sequencerStep_at_h3r {k : Fin 4} {j : Fin 8} (h : s.seq = .h3r k j) : sequencerStep s =
    { s with
      sck := true
      rxb := (s.rxb <<< 1) ||| (BitVec.ofBool (s.sample (sampleIndex k j))).setWidth 8
      seq := .h3f k j
      trace := s.trace ++ [.write .sck true, .sample (s.sample (sampleIndex k j))] } := by
  rcases s with ⟨⟩
  subst h
  simp [sequencerStep, Pos.op, MicroOp.perform, openAcquisition, riseSample, lineRead, lineWrite, State.log,
    State.sample, State.sampleAt, Pos.next]

/-- The step at `h3f k j`. -/
theorem sequencerStep_at_h3f {k : Fin 4} {j : Fin 8} (h : s.seq = .h3f k j) : sequencerStep s =
    { s with
      sck := false
      buf := if j = 7 then s.buf.set (3 - k.val) s.rxb (by omega) else s.buf
      seq := (Pos.h3f k j).next
      trace := s.trace ++ [.write .sck false] } := by
  rcases s with ⟨⟩
  subst h
  simp only [sequencerStep, Pos.op, MicroOp.perform, openAcquisition, fall]
  split <;> rfl

/-- The step at `h4`. -/
theorem sequencerStep_at_h4 (h : s.seq = .h4) : sequencerStep s =
    { s with
      cs := true
      seq := .dec
      trace := s.trace ++ [.write .cs true] } := by
  rcases s with ⟨⟩
  subst h
  rfl

/-- While a command runs, before `DEC` and with a quiet host, the machine's step is the sequencer's. -/
theorem step_sequencing (hb : s.busy = true) (hd : s.seq ≠ .dec) (hq : s.host.getD 0 .quiet = .quiet) :
    step s = .next (sequencerStep s.tick) := by
  rw [step_running hb hq, readCommand_running (by simpa using hb) (by simp) (by simpa using hd)]

/-- At `DEC` and with a quiet host, the machine's step is the delivery of the running command's result. -/
theorem step_delivering (hb : s.busy = true) (hd : s.seq = .dec) (hq : s.host.getD 0 .quiet = .quiet) :
    step s = .next (deliver (resultFor s.opr s.acquired) s.tick) := by
  rw [step_running hb hq, readCommand_at_dec (by simpa using hb) (by simp) (by simpa using hd)]
  rfl

/-- `n` steps of the sequencer. -/
def sequencerSteps : Nat → State → State
  | 0, s => s
  | n + 1, s => sequencerSteps n (sequencerStep s)

/-- Steps of the sequencer are put together. -/
theorem sequencerSteps_add (m n : Nat) (s : State) :
    sequencerSteps (m + n) s = sequencerSteps n (sequencerSteps m s) := by
  induction m generalizing s with
  | zero => rw [Nat.zero_add]; rfl
  | succ m ih => rw [Nat.succ_add]; exact ih (sequencerStep s)

/-- The last of them. -/
theorem sequencerSteps_succ (n : Nat) (s : State) :
    sequencerSteps (n + 1) s = sequencerStep (sequencerSteps n s) :=
  sequencerSteps_add n 1 s

/-- The host's moves to come have no part in a step of the sequencer. -/
theorem sequencerStep_with_host (s : State) (h : List HostMove) :
    sequencerStep { s with host := h } = { sequencerStep s with host := h } := by
  rcases s with ⟨_, _, _, _, _, _, _, _, _, _, _, seq, _, _, _, _, _, _, _⟩
  cases seq with
  | h3f k j =>
    simp only [sequencerStep, Pos.op, MicroOp.perform, openAcquisition, fall]
    split <;> rfl
  | _ => rfl

/-- A command that does not reach `DEC` before its last step runs through a quiet host as its sequencer alone. -/
theorem run_sequencing {n : Nat} (hb : s.busy = true) (hq : quietFor n s.host)
    (hd : ∀ k, k < n → (sequencerSteps k s).seq ≠ .dec) :
    run n s = .next { sequencerSteps n s with host := s.host.drop n } := by
  induction n generalizing s with
  | zero => rfl
  | succ n ih =>
    have h0 : s.seq ≠ .dec := hd 0 (by omega)
    rw [run_succ_of_step (step_sequencing hb h0 (quietFor_head hq))]
    have ht : sequencerStep s.tick = { sequencerStep s with host := s.host.tail } := sequencerStep_with_host s _
    have hk : ∀ k u, sequencerSteps k { u with host := s.host.tail } =
        { sequencerSteps k u with host := s.host.tail } := by
      intro k
      induction k with
      | zero => intro u; rfl
      | succ k ihk =>
        intro u
        show sequencerSteps k (sequencerStep { u with host := s.host.tail }) = _
        rw [sequencerStep_with_host, ihk]
        rfl
    rw [ht, ih (by simpa using hb) (quietFor_tail hq), hk]
    · simp only [List.drop_tail]
      rfl
    · intro k hkn
      rw [hk]
      exact hd (k + 1) (by omega)

/-- Quiet after the first `m` moves. -/
theorem quietFor_drop {m n : Nat} {h : List HostMove} (hq : quietFor (m + n) h) : quietFor n (h.drop m) := by
  intro k hk
  have := hq (m + k) (by omega)
  simp only [List.getD_eq_getElem?_getD] at this ⊢
  simpa using this

/-- One step of the sequencer is one step fewer to rest (R112). -/
theorem Pos.stepsLeft_next {p : Pos} (h : p ≠ .idle) : p.next.stepsLeft + 1 = p.stepsLeft := by
  cases p with
  | idle => exact absurd rfl h
  | m2e i => simp only [Pos.next]; split <;> simp only [Pos.stepsLeft] <;> omega
  | h3f k j =>
    simp only [Pos.next]
    split
    · simp only [Pos.stepsLeft]; omega
    · split
      · simp only [Pos.stepsLeft]
        have : ((0 : Fin 8) : Nat) = 0 := rfl
        omega
      · simp only [Pos.stepsLeft]; omega
  | m1d => rfl
  | h2b => rfl
  | _ => simp only [Pos.next, Pos.stepsLeft] <;> omega

/-- So `n` steps of the sequencer are `n` steps fewer, as long as `DEC` is not passed. -/
theorem sequencerSteps_stepsLeft {n : Nat} {s : State} (h : n < s.seq.stepsLeft) :
    (sequencerSteps n s).seq.stepsLeft + n = s.seq.stepsLeft := by
  induction n with
  | zero => rfl
  | succ n ih =>
    have ih' := ih (by omega)
    have hl : 1 < (sequencerSteps n s).seq.stepsLeft := by omega
    have hi : (sequencerSteps n s).seq ≠ .idle := by
      intro he
      rw [he] at hl
      simp [Pos.stepsLeft] at hl
    have hd : (sequencerSteps n s).seq ≠ .dec := by
      intro he
      rw [he] at hl
      simp [Pos.stepsLeft] at hl
    rw [sequencerSteps_succ, sequencerStep_seq hi hd]
    have := Pos.stepsLeft_next hi
    omega

/-- Exactly at rest there is nothing left. -/
theorem Pos.stepsLeft_eq_zero_iff (p : Pos) : p.stepsLeft = 0 ↔ p = .idle := by
  cases p <;> simp [Pos.stepsLeft] <;> omega

/-- The successor is a position of the same strategy (R91). -/
theorem Pos.inMode_next {m : Mode} {p : Pos} (h : p.inMode m = true) : p.next.inMode m = true := by
  cases p with
  | m2e i => simp only [Pos.next]; split <;> simpa [Pos.inMode] using h
  | h3f k j => simp only [Pos.next]; split <;> [skip; split] <;> simpa [Pos.inMode] using h
  | idle => rfl
  | m3 => rfl
  | h4 => rfl
  | dec => rfl
  | _ => simpa [Pos.next, Pos.inMode] using h

end Sys2Proof.Machine
end

