-- ==== Sys2Proof/Tests/Slice0.lean ====
section
/-!
SUPPORT. Small tests with expected results from the spec's own examples and vectors (`95_test_vectors.md`), and for each
obligation with hypotheses a named witness that meets them.
-/

namespace Sys2Proof.Tests

open Sys2Proof.Machine

/-- The state an outcome leads to, if it does. -/
def after (o : Host.Outcome State Fault Refusal) : Option State :=
  match o with
  | .next t => some t
  | .fault _ => none
  | .refused _ => none

/-- A block constructed in mode `m` on lines 1, 2 and 3, with a host and a peer. -/
def rest (m : Mode) (host : List HostMove) (oracle : List Frame) : State :=
  { State.constructed m ⟨1⟩ ⟨2⟩ ⟨3⟩ with host := host, oracle := oracle }

/-- That block in its first acquisition, at a position after its first step, running the command `c`, with what its
strategy holds of the peer's frame `v` there. -/
def running (m : Mode) (c : CmdCode) (p : Pos) (host : List HostMove) (v : Frame) : State :=
  { rest m host [v] with
    opr := c
    busy := true
    seq := p
    cs := p.csLevel
    sck := p.sckLevel m true
    frameNo := 1
    acc := match m with
      | .manual => v >>> (32 - p.taken)
      | .hardware => 0#32
    rxb := match m with
      | .manual => 0#8
      | .hardware => (v >>> (32 - p.taken)).setWidth 8
    buf := match m with
      | .manual => #v[0#8, 0#8, 0#8, 0#8]
      | .hardware => #v[if 4 ≤ p.placed then v.extractLsb' 0 8 else 0#8, if 3 ≤ p.placed then v.extractLsb' 8 8 else 0#8,
          if 2 ≤ p.placed then v.extractLsb' 16 8 else 0#8, if 1 ≤ p.placed then v.extractLsb' 24 8 else 0#8]
    trace := List.replicate p.taken (.sample false) }

/-! ### Well-formedness: one ill-formed operation for each check (U11) -/

theorem test_wellFormed_refuses_clock_as_chip_select :
    Instr.wellFormed (.constructManual ⟨1⟩ ⟨1⟩ ⟨2⟩) = false ∧ Instr.clkNotCs (.constructManual ⟨1⟩ ⟨1⟩ ⟨2⟩) = false := by
  decide

theorem test_wellFormed_refuses_chip_select_as_data_in :
    Instr.wellFormed (.constructManual ⟨1⟩ ⟨2⟩ ⟨2⟩) = false ∧ Instr.csNotMiso (.constructManual ⟨1⟩ ⟨2⟩ ⟨2⟩) = false := by
  decide

theorem test_wellFormed_refuses_clock_as_data_in :
    Instr.wellFormed (.constructManual ⟨1⟩ ⟨2⟩ ⟨1⟩) = false ∧ Instr.clkNotMiso (.constructManual ⟨1⟩ ⟨2⟩ ⟨1⟩) = false := by
  decide

theorem test_wellFormed_accepts_different_lines :
    Instr.wellFormed (.constructManual ⟨1⟩ ⟨2⟩ ⟨3⟩) = true ∧ Instr.wellFormed (.constructHw ⟨1⟩) = true ∧
    Instr.wellFormed .readError = true := by
  decide

/-! ### Decoding: the words of R73 and R74, bit by bit -/

theorem test_decode_readInternal :
    decodeBytes .command [0b00000000#8] [] = .ok .readInternal ∧ decodeTableWord 8 0b00 = some .readInternal := by
  decide

theorem test_decode_readCelsius :
    decodeBytes .command [0b00000001#8] [] = .ok .readCelsius ∧ decodeTableWord 8 0b01 = some .readCelsius := by
  decide

theorem test_decode_readFahrenheit :
    decodeBytes .command [0b00000010#8] [] = .ok .readFahrenheit ∧ decodeTableWord 8 0b10 = some .readFahrenheit := by
  decide

theorem test_decode_readError :
    decodeBytes .command [0b00000011#8] [] = .ok .readError ∧ decodeTableWord 8 0b11 = some .readError := by
  decide

theorem test_decode_constructManual :
    decodeBytes .strap [0b00000000#8] [⟨7⟩, ⟨8⟩, ⟨9⟩] = .ok (.constructManual ⟨7⟩ ⟨8⟩ ⟨9⟩) := by
  decide

theorem test_decode_constructHw : decodeBytes .strap [0b00000001#8] [⟨8⟩] = .ok (.constructHw ⟨8⟩) := by
  decide

theorem test_decode_refuses_what_is_no_operation :
    decodeBytes .command [0b00000100#8] [] = .error .outsidePort ∧
    decodeBytes .strap [0b00000010#8] [⟨8⟩] = .error .outsidePort ∧
    decodeBytes .command [] [] = .error .noByte ∧ decodeBytes .command [0#8, 0#8] [] = .error .extraBytes ∧
    decodeBytes .strap [0#8] [⟨8⟩] = .error .identifierCount ∧
    decodeBytes .strap [1#8] [⟨7⟩, ⟨8⟩, ⟨9⟩] = .error .identifierCount := by
  decide

/-- Every row of the table runs as the first operation after reset. -/
theorem test_first_operation_after_reset :
    (after (step (State.reset.withFetchWord 2 0b00))).map (·.opr) = some 0b00#2 ∧
    (after (step (State.reset.withFetchWord 2 0b01))).map (·.opr) = some 0b01#2 ∧
    (after (step (State.reset.withFetchWord 2 0b10))).map (·.opr) = some 0b10#2 ∧
    (after (step (State.reset.withFetchWord 2 0b11))).map (·.opr) = some 0b11#2 ∧
    (after (step (State.reset.withFetchWord 1 0b0))).map (·.mode) = some .manual ∧
    (after (step (State.reset.withFetchWord 1 0b1))).map (·.mode) = some .hardware :=
  ⟨rfl, rfl, rfl, rfl, rfl, rfl⟩

/-! ### The decoder: rows of `95_test_vectors.md` section 2.2 -/

/-- Row 2 (source S6): a fault gates the probe reads; a negated zero. -/
theorem test_decode_row_2 :
    resultCelsius 0x01918003#32 = ⟨false, 0#18⟩ ∧ resultFahrenheit 0x01918003#32 = ⟨false, 0#18⟩ ∧
    resultInternal 0x01918003#32 = ⟨true, 0#18⟩ ∧ resultError 0x01918003#32 = ⟨true, 3#18⟩ := by
  simp only [resultCelsius, resultFahrenheit, probeFahrenheit, probeCelsius]
  decide

/-- Row 6: both readings negative; -260 is `0x3FEFC`. -/
theorem test_decode_row_6 :
    resultCelsius 0xFE70E700#32 = ⟨true, BitVec.ofInt 18 (-100)⟩ ∧
    resultFahrenheit 0xFE70E700#32 = ⟨true, 0x3FEFC#18⟩ ∧
    resultInternal 0xFE70E700#32 = ⟨true, BitVec.ofInt 18 (-1648)⟩ := by
  simp only [resultCelsius, resultFahrenheit, probeFahrenheit, probeCelsius]
  decide

/-- Row 8: all ones; -2047 is `0x3F801`. -/
theorem test_decode_row_8 :
    (resultCelsius 0xFFFFFFFF#32).valid = false ∧ resultInternal 0xFFFFFFFF#32 = ⟨true, 0x3F801#18⟩ ∧
    resultError 0xFFFFFFFF#32 = ⟨true, 7#18⟩ := by
  simp only [resultCelsius, probeCelsius]
  decide

/-- Rows 3, 9 and 10: -4 is `0x3FFFC`; 74359 is `0x12277`; -73088 is `0x2E280`. -/
theorem test_decode_probe_ends :
    resultCelsius 0xFFF00000#32 = ⟨true, 0x3FFFC#18⟩ ∧ resultFahrenheit 0x7FFC0000#32 = ⟨true, 0x12277#18⟩ ∧
    resultFahrenheit 0x80000000#32 = ⟨true, 0x2E280#18⟩ := by
  simp only [resultCelsius, resultFahrenheit, probeFahrenheit, probeCelsius]
  decide

/-- Row 28: bit 3 beside all three fault bits; the internal reading is not gated. -/
theorem test_decode_row_28 :
    resultError 0x0190190F#32 = ⟨true, 7#18⟩ ∧ resultInternal 0x0190190F#32 = ⟨true, 400#18⟩ ∧
    (resultFahrenheit 0x0190190F#32).valid = false := by
  simp only [resultFahrenheit, probeFahrenheit, probeCelsius]
  decide

/-- R122: code 6 is short-to-supply and short-to-ground. -/
theorem test_fault_bits :
    openCircuit 0x6#32 = false ∧ shortToGround 0x6#32 = true ∧ shortToSupply 0x6#32 = true ∧ faulted 0x8#32 = false := by
  decide

/-! ### Micro-operations, from the examples of `40_transport.md` -/

/-- R94: `ACC = 0x8000_0001` and sample 1 give `0x0000_0003`. -/
theorem test_shiftSample :
    ((MicroOp.shiftSample 0).perform { running .manual 0 (.m2c 0) [] 0x80000000#32 with acc := 0x80000001#32 }).acc =
      0x00000003#32 := by
  decide

/-- R95: `RXB = 0x80` and sample 1 give `0x01`, and the clock is high. -/
theorem test_riseSample :
    ((MicroOp.riseSample 8).perform { running .hardware 0 (.h3r 1 0) [] 0x00800000#32 with rxb := 0x80#8 }).rxb = 0x01#8 ∧
    ((MicroOp.riseSample 8).perform (running .hardware 0 (.h3r 1 0) [] 0x00800000#32)).sck = true := by
  decide

/-- R105 and T3: after slot 7 of byte 0, and not before, `BUF[3] = 0x01`. -/
theorem test_fall_places_byte :
    ((MicroOp.fall 0 7).perform (running .hardware 0 (.h3f 0 7) [] 0x01918003#32)).buf = #v[0#8, 0#8, 0#8, 0x01#8] ∧
    ((MicroOp.fall 0 6).perform (running .hardware 0 (.h3f 0 6) [] 0x01918003#32)).buf = #v[0#8, 0#8, 0#8, 0#8] := by
  decide

/-- T4: byte placement is not symmetric. -/
theorem test_bufferFrame : bufferFrame #v[0xC8#8, 0xAB#8, 0x34#8, 0x12#8] = 0x1234ABC8#32 := by
  decide

/-- R51: the first sample is the top bit. -/
theorem test_frameValue_first_sample : frameValue (fun i => i == 0) = 0x80000000#32 := by
  decide

/-! ### One step of each operation -/

/-- K3: acceptance in hardware mode, with no event. -/
theorem test_readCelsius_accepted :
    (after (step (rest .hardware [.request (.command 0b01#2)] []))).map
      (fun t => (t.opr, t.busy, t.seq, t.trace)) = some (0b01#2, true, .h2a, []) := by
  decide

/-- P2: at `DEC` the result is -4 and the block is at rest. -/
theorem test_readCelsius_delivers :
    (after (execReadCelsius { running .manual 0b01#2 .dec [] 0xFFF00000#32 with trace := [] })).map
      (fun t => (t.busy, t.seq, t.trace)) = some (false, .idle, [.result 0b01#2 true 0x3FFFC#18]) :=
  rfl

/-- P3: 212.00 degrees Fahrenheit. -/
theorem test_readFahrenheit_delivers :
    (after (execReadFahrenheit { running .manual 0b10#2 .dec [] 0x06400000#32 with trace := [] })).map (·.trace) =
      some [.result 0b10#2 true 4240#18] :=
  rfl

/-- K9: `READ_INTERNAL` is never gated. -/
theorem test_readInternal_delivers :
    (after (execReadInternal { running .hardware 0b00#2 .dec [] 0x00000007#32 with trace := [] })).map (·.trace) =
      some [.result 0b00#2 true 0#18] :=
  rfl

/-- P1: the fault code 3, from the hardware strategy's buffer. -/
theorem test_readError_delivers :
    (after (execReadError { running .hardware 0b11#2 .dec [] 0x01918003#32 with trace := [] })).map (·.trace) =
      some [.result 0b11#2 true 3#18] :=
  rfl

/-- R96: the first manual step drives the clock low, counts the acquisition and clears `ACC`. -/
theorem test_readError_first_step :
    (after (execReadError
      { rest .manual [] [] with opr := 0b11#2, busy := true, seq := .m1a, sck := true, acc := 0xDEADBEEF#32 })).map
        (fun t => (t.sck, t.acc, t.frameNo, t.seq, t.trace)) =
      some (false, 0#32, 1, .m1b, [.write .sck false]) := by
  decide

/-- K4: a command while another runs. -/
theorem test_command_while_busy :
    step (running .hardware 0b00#2 (.h3r 1 2) [.request (.command 0b01#2)] 0#32) = .refused .commandWhileBusy :=
  rfl

/-- K1, R146. -/
theorem test_constructManual :
    (after (execConstructManual ⟨4⟩ ⟨5⟩ ⟨6⟩ State.reset)).map
      (fun t => (t.mode, t.clkId, t.csId, t.misoId, t.cs, t.sck, t.mosi)) =
        some (.manual, some ⟨4⟩, ⟨5⟩, some ⟨6⟩, true, false, none) :=
  rfl

/-- K2, R147. -/
theorem test_constructHw :
    (after (execConstructHw ⟨5⟩ State.reset)).map
      (fun t => (t.mode, t.clkId, t.csId, t.misoId, t.cs, t.sck, t.mosi)) =
        some (.hardware, none, ⟨5⟩, none, true, false, some false) :=
  rfl

/-- K7: reset at `M2c(10)`; the peer's next answer is that of the next acquisition. -/
theorem test_reset_at_M2c_10 :
    (after (step { running .manual 0b01#2 (.m2c 10) [.request (.strap 1#1 [⟨9⟩])] 0xFFF00000#32 with
        oracle := [0xFFF00000#32, 0x01900000#32] })).map
      (fun t => (t.mode, t.cs, t.sck, t.busy, t.seq, t.acc, t.trace, t.oracle)) =
        some (.hardware, true, false, false, .idle, 0#32, [], [0x01900000#32]) :=
  rfl

/-! ### Witnesses: the hypotheses of the obligations are met -/

/-- An operation is decoded from its request and from no other: both sides of the equivalence are met. -/
theorem witness_DecodeIsTheInverseOfEncode :
    decode (.strap 1#1 [⟨8⟩]) = .ok (.constructHw ⟨8⟩) ∧ encode (.constructHw ⟨8⟩) = .strap 1#1 [⟨8⟩] := by
  decide

theorem witness_BytesDecodeExactlyToWhatTheyEncode :
    decodeBytes .strap [0#8] [⟨7⟩, ⟨8⟩, ⟨9⟩] = .ok (.constructManual ⟨7⟩ ⟨8⟩ ⟨9⟩) ∧
    decodeBytes .command [3#8] [⟨7⟩] = .ok .readError := by
  decide

theorem witness_OtherPresentationsAreRefusedByName :
    4 ≤ (4#8).toNat ∧ 4 ≤ (255#8).toNat ∧ 2 ≤ (2#8).toNat ∧ 2 ≤ (255#8).toNat := by
  decide

theorem witness_FaultCodeIsTheLowThreeBits : 0xFFFFFFFF#32 &&& 0x7#32 = 0x7#32 &&& 0x7#32 := by
  decide

theorem witness_ProbeCelsiusIsGatedAndScaled :
    0x00000001#32 &&& 0x7#32 ≠ 0#32 ∧ 0x80000004#32 &&& 0x7#32 ≠ 0#32 ∧ 0x80000000#32 &&& 0x7#32 = 0#32 ∧
    0x7FFC0008#32 &&& 0x7#32 = 0#32 ∧ 0x0003FFF8#32 >>> 18 = 0#32 >>> 18 ∧ 0x0003FFF8#32 &&& 0x7#32 = 0#32 &&& 0x7#32 := by
  decide

theorem witness_ProbeFahrenheitIsNineFifthsPlusThirtyTwo :
    probeCelsius 0x80000000#32 = .value ((probeCount 0x80000000#32 : ℚ) * (1 / 4)) ∧
    probeCelsius 0x00000001#32 = .invalid ∧ 0x7FFC0000#32 &&& 0x7#32 = 0#32 :=
  ⟨rfl, rfl, by decide⟩

theorem witness_InternalCelsiusIsSignAndMagnitude :
    (0xFFFF000F#32 >>> 4) &&& 0xFFF#32 = (0x00000000#32 >>> 4) &&& 0xFFF#32 := by
  decide

theorem witness_NegatedZeroIsZero :
    (0x00008000#32 >>> 4) &&& 0x7FF#32 = 0#32 ∧ (0xFFFF000F#32 >>> 4) &&& 0x7FF#32 = 0#32 := by
  decide

theorem witness_UnusedFrameBitsHaveNoEffect :
    ∀ n, n ≠ 3 → n ≠ 16 → n ≠ 17 → (0x00030008#32).getLsbD n = (0x00000000#32).getLsbD n := by
  intro n h3 h16 h17
  rcases Nat.lt_or_ge n 32 with h | h
  · have : ∀ m : Fin 32, m.val ≠ 3 → m.val ≠ 16 → m.val ≠ 17 →
        (0x00030008#32).getLsbD m.val = (0x00000000#32).getLsbD m.val := by decide
    exact this ⟨n, h⟩ h3 h16 h17
  · simp [BitVec.getLsbD_of_ge, h]

theorem witness_DecoderReadsOnlyItsFields :
    (0xFFFFFFF8#32).extractLsb' 0 3 = (0x00000000#32).extractLsb' 0 3 ∧
    ((0x0003FFF8#32).extractLsb' 18 14 = (0x00000000#32).extractLsb' 18 14 ∧
      (0x0003FFF8#32).extractLsb' 0 3 = (0x00000000#32).extractLsb' 0 3) ∧
    (0xFFFF000F#32).extractLsb' 4 12 = (0x00000000#32).extractLsb' 4 12 := by
  decide

theorem witness_ResultsStandForTheReadings :
    faultCode 0x7FFC0000#32 = 0#3 ∧ faultCode 0x00000001#32 ≠ 0#3 ∧ faultCode 0xFFFFFFFF#32 ≠ 0#3 := by
  decide

theorem witness_OnlyProbeReadsAreGated :
    0x00000001#32 &&& 0x7#32 ≠ 0#32 ∧ 0xFFFFFFFF#32 &&& 0x7#32 ≠ 0#32 := by
  decide

theorem witness_FallPlacesTheCompleteByte :
    ∃ s t : State, t = (MicroOp.fall 3 7).perform s ∧ t.buf[(0 : Fin 4)] = s.rxb ∧ s.rxb ≠ s.buf[(0 : Fin 4)] :=
  ⟨running .hardware 0 (.h3f 3 7) [] 0x01918003#32, _, rfl, by decide, by decide⟩

/-- A running command with a quiet host, a waiting block, and each kind of request. -/
theorem witness_StepRunsTheDecodedInstruction :
    ((rest .manual [.request (.command 0b11#2), .quiet] []).host = .request (.command 0b11#2) :: [.quiet] ∧
      decode (.command 0b11#2) = .ok .readError ∧ (rest .manual [.request (.command 0b11#2), .quiet] []).busy = false) ∧
    ((running .manual 0 .m3 [.request (.strap 1#1 [⟨1⟩])] 0#32).host = .request (.strap 1#1 [⟨1⟩]) :: [] ∧
      decode (.strap 1#1 [⟨1⟩]) = .ok (.constructHw ⟨1⟩) ∧ Instr.isCommand (.constructHw ⟨1⟩) = false) ∧
    ((running .manual 0 .m3 [.quiet] 0#32).host.getD 0 .quiet = .quiet ∧ (running .manual 0 .m3 [.quiet] 0#32).busy = true) ∧
    ((rest .manual [] []).host.getD 0 .quiet = .quiet ∧ (rest .manual [] []).busy = false) := by
  decide

theorem witness_IdleBlockAcceptsACommand :
    (rest .manual [.request (.command 0b00#2)] []).busy = false ∧
    (rest .manual [.request (.command 0b00#2)] []).host = .request (.command 0b00#2) :: [] := by
  decide

theorem witness_CommandWhileBusyIsRefused :
    ((running .manual 0b10#2 .m1b [.request (.command 0b10#2)] 0#32).busy = true ∧
      (running .manual 0b10#2 .m1b [.request (.command 0b10#2)] 0#32).host = .request (.command 0b10#2) :: []) ∧
    ((running .manual 0b10#2 .dec [] 0#32).busy = true ∧ (running .manual 0b10#2 .dec [] 0#32).opr ≠ 0b11#2) := by
  decide

theorem witness_MalformedConstructionIsRefused :
    (rest .manual [.request (.strap 0#1 [⟨1⟩])] []).host = .request (.strap 0#1 [⟨1⟩]) :: [] ∧
    [(⟨1⟩ : LineId)].length ≠ (if 0#1 = 0#1 then 3 else 1) ∧ ([] : List LineId).length ≠ (if 1#1 = 0#1 then 3 else 1) := by
  decide

/-- The first step of each strategy, and the last position before `DEC`. -/
theorem witness_RunningCommandMakesTheStepAtSeq :
    ((running .manual 0 .m1a [] 0#32).busy = true ∧ Pos.m1a.op = some (.drive .sck false)) ∧
    ((running .hardware 0 .h2a [] 0#32).busy = true ∧ Pos.h2a.op = some (.drive .cs false)) ∧
    ((running .hardware 0 (.h3f 3 7) [] 0#32).busy = true ∧ (Pos.h3f 3 7).op = some (.fall 3 7)) ∧
    ((running .manual 0 .m3 [] 0#32).busy = true ∧ Pos.m3.op = some (.drive .cs true)) := by
  decide

/-- A quiet host stays quiet. -/
theorem quietFor_nil (n : Nat) : quietFor n [] := by
  intro k _
  simp

theorem quietFor_replicate (n m : Nat) : quietFor n (List.replicate m .quiet) := by
  intro k _
  simp only [List.getD_eq_getElem?_getD, List.getElem?_replicate]
  split <;> rfl

/-- A host that is quiet at first and then does anything. -/
theorem quietFor_replicate_append (n : Nat) (h : List HostMove) : quietFor n (List.replicate n .quiet ++ h) := by
  intro k hk
  simp [List.getD_eq_getElem?_getD, List.getElem?_append_left, hk]

/-! The read operations, each with a frame at an end of its range and one that the other clause of its gate takes. -/

theorem witness_ReadInternalOperation :
    (rest .manual [] []).busy = false ∧
    ((running .manual 0b00#2 .dec [] 0x0000FFF0#32).busy = true ∧ (running .manual 0b00#2 .dec [] 0x0000FFF0#32).opr = 0b00#2 ∧ (running .manual 0b00#2 .dec [] 0x0000FFF0#32).seq = .dec ∧
      0x0000FFF0#32 = (running .manual 0b00#2 .dec [] 0x0000FFF0#32).acquired) ∧
    ((rest .hardware [.request (.command 0b00#2)] [0x00008000#32]).busy = false ∧
      (rest .hardware [.request (.command 0b00#2)] [0x00008000#32]).host = .request (.command 0b00#2) :: [] ∧
      quietFor (operationSteps (rest .hardware [.request (.command 0b00#2)] [0x00008000#32]).mode) [] ∧
      0x00008000#32 = (rest .hardware [.request (.command 0b00#2)] [0x00008000#32]).frameAt 0) :=
  ⟨rfl, ⟨rfl, rfl, rfl, by decide⟩, rfl, rfl, quietFor_nil _, by decide⟩

theorem witness_ReadCelsiusOperation :
    (rest .manual [] []).busy = false ∧
    ((running .hardware 0b01#2 .dec [] 0x00000001#32).busy = true ∧ (running .hardware 0b01#2 .dec [] 0x00000001#32).opr = 0b01#2 ∧ (running .hardware 0b01#2 .dec [] 0x00000001#32).seq = .dec ∧
      0x00000001#32 = (running .hardware 0b01#2 .dec [] 0x00000001#32).acquired) ∧
    ((rest .manual [.request (.command 0b01#2)] [0x80000000#32]).busy = false ∧
      (rest .manual [.request (.command 0b01#2)] [0x80000000#32]).host = .request (.command 0b01#2) :: [] ∧
      quietFor (operationSteps (rest .manual [.request (.command 0b01#2)] [0x80000000#32]).mode) [] ∧
      0x80000000#32 = (rest .manual [.request (.command 0b01#2)] [0x80000000#32]).frameAt 0) :=
  ⟨rfl, ⟨rfl, rfl, rfl, by decide⟩, rfl, rfl, quietFor_nil _, by decide⟩

theorem witness_ReadFahrenheitOperation :
    (rest .manual [] []).busy = false ∧
    ((running .manual 0b10#2 .dec [] 0x7FFC0000#32).busy = true ∧ (running .manual 0b10#2 .dec [] 0x7FFC0000#32).opr = 0b10#2 ∧ (running .manual 0b10#2 .dec [] 0x7FFC0000#32).seq = .dec ∧
      0x7FFC0000#32 = (running .manual 0b10#2 .dec [] 0x7FFC0000#32).acquired) ∧
    ((rest .hardware [.request (.command 0b10#2)] [0x00000004#32]).busy = false ∧
      (rest .hardware [.request (.command 0b10#2)] [0x00000004#32]).host = .request (.command 0b10#2) :: [] ∧
      quietFor (operationSteps (rest .hardware [.request (.command 0b10#2)] [0x00000004#32]).mode) [] ∧
      0x00000004#32 = (rest .hardware [.request (.command 0b10#2)] [0x00000004#32]).frameAt 0) :=
  ⟨rfl, ⟨rfl, rfl, rfl, by decide⟩, rfl, rfl, quietFor_nil _, by decide⟩

theorem witness_ReadErrorOperation :
    (rest .manual [] []).busy = false ∧
    ((running .hardware 0b11#2 .dec [] 0xFFFFFFFF#32).busy = true ∧ (running .hardware 0b11#2 .dec [] 0xFFFFFFFF#32).opr = 0b11#2 ∧ (running .hardware 0b11#2 .dec [] 0xFFFFFFFF#32).seq = .dec ∧
      0xFFFFFFFF#32 = (running .hardware 0b11#2 .dec [] 0xFFFFFFFF#32).acquired) ∧
    ((rest .manual [.request (.command 0b11#2)] [0x00000000#32]).busy = false ∧
      (rest .manual [.request (.command 0b11#2)] [0x00000000#32]).host = .request (.command 0b11#2) :: [] ∧
      quietFor (operationSteps (rest .manual [.request (.command 0b11#2)] [0x00000000#32]).mode) [] ∧
      0x00000000#32 = (rest .manual [.request (.command 0b11#2)] [0x00000000#32]).frameAt 0) :=
  ⟨rfl, ⟨rfl, rfl, rfl, by decide⟩, rfl, rfl, quietFor_nil _, by decide⟩

theorem witness_ManualOperationIsExact :
    (rest .manual [.request (.command 0b01#2)] [0xFFF00000#32]).mode = .manual ∧
    (rest .manual [.request (.command 0b01#2)] [0xFFF00000#32]).busy = false ∧
    (rest .manual [.request (.command 0b01#2)] [0xFFF00000#32]).host = .request (.command 0b01#2) :: [] ∧
    quietFor 166 [] ∧
    ∀ i : Fin 32, (0xFFF00000#32).getLsbD (31 - i.val) =
      (rest .manual [.request (.command 0b01#2)] [0xFFF00000#32]).sampleAt 0 i :=
  ⟨rfl, rfl, rfl, quietFor_nil _, fun _ => rfl⟩

theorem witness_HardwareOperationIsExact :
    (rest .hardware [.request (.command 0b11#2)] [0x01918003#32]).mode = .hardware ∧
    (rest .hardware [.request (.command 0b11#2)] [0x01918003#32]).busy = false ∧
    (rest .hardware [.request (.command 0b11#2)] [0x01918003#32]).host = .request (.command 0b11#2) :: [] ∧
    quietFor 68 [] ∧
    ∀ i : Fin 32, (0x01918003#32).getLsbD (31 - i.val) =
      (rest .hardware [.request (.command 0b11#2)] [0x01918003#32]).sampleAt 0 i :=
  ⟨rfl, rfl, rfl, quietFor_nil _, fun _ => rfl⟩

/-- The two instances of program P5, before their first command. -/
theorem witness_StrategiesAreEquivalent :
    (rest .manual [.request (.command 0b11#2)] [0x1234ABC8#32]).mode = .manual ∧
    (rest .hardware [.request (.command 0b11#2)] [0x1234ABC8#32]).mode = .hardware ∧
    (rest .manual [.request (.command 0b11#2)] [0x1234ABC8#32]).busy = false ∧
    (rest .hardware [.request (.command 0b11#2)] [0x1234ABC8#32]).busy = false ∧
    (rest .manual [.request (.command 0b11#2)] [0x1234ABC8#32]).host = .request (.command 0b11#2) :: [] ∧
    (rest .hardware [.request (.command 0b11#2)] [0x1234ABC8#32]).host = .request (.command 0b11#2) :: [] ∧
    quietFor 166 [] ∧ quietFor 68 [] ∧
    ∀ i : Fin 32, (rest .manual [.request (.command 0b11#2)] [0x1234ABC8#32]).sampleAt 0 i =
      (rest .hardware [.request (.command 0b11#2)] [0x1234ABC8#32]).sampleAt 0 i :=
  ⟨rfl, rfl, rfl, rfl, rfl, rfl, quietFor_nil _, quietFor_nil _, fun _ => rfl⟩

/-- Situation K5, in either mode. -/
theorem witness_TwoReadsAreTwoFrames (m : Mode) :
    ∃ (s : State) (mid : List HostMove), s.mode = m ∧ s.busy = false ∧
      s.host = .request (.command 0b01#2) :: (mid ++ .request (.command 0b11#2) :: []) ∧
      mid.length = operationSteps m ∧ quietFor (operationSteps m) mid ∧ quietFor (operationSteps m) [] ∧
      s.sampleAt 0 29 = true ∧ s.sampleAt 1 29 = false :=
  ⟨rest m (.request (.command 0b01#2) :: (List.replicate (operationSteps m) .quiet ++ .request (.command 0b11#2) :: []))
      [0x01900004#32, 0x01900000#32], List.replicate (operationSteps m) .quiet,
    rfl, rfl, rfl, List.length_replicate, quietFor_replicate _ _, quietFor_nil _, rfl, rfl⟩

/-- Each line and each register does change where the frame says it may. -/
theorem witness_ReadCommandFrame :
    (after (exec .readError (running .manual 0b11#2 .m1c [] 0#32))).map (·.cs) ≠ some true ∧
    (after (exec .readError (running .hardware 0b11#2 .h4 [] 0#32))).map (·.cs) = some true ∧
    (after (exec .readError (running .manual 0b11#2 .m1a [] 0#32))).map (·.sck) = some false ∧
    (after (exec .readError (running .manual 0b11#2 (.m2c 31) [] 1#32))).map (·.acc) = some 1#32 ∧
    (after (exec .readError (running .hardware 0b11#2 (.h3r 3 7) [] 1#32))).map (·.rxb) = some 1#8 ∧
    (after (exec .readError (running .hardware 0b11#2 (.h3f 3 7) [] 1#32))).map (·.buf) = some #v[1#8, 0#8, 0#8, 0#8] ∧
    (after (exec .readError (running .hardware 0b11#2 .h2a [] 1#32))).map (·.frameNo) = some 2 ∧
    (after (exec .readError (rest .manual [] []))).map (·.opr) = some 0b11#2 := by
  decide

/-- A block at rest with a clock left high, whose host is quiet for two steps and then asks. -/
theorem witness_IdleBlockWaitsWhileTheHostIsQuiet :
    { rest .manual [.quiet, .quiet, .request (.command 0b01#2)] [] with sck := true }.busy = false ∧
    quietFor 2 { rest .manual [.quiet, .quiet, .request (.command 0b01#2)] [] with sck := true }.host :=
  ⟨rfl, quietFor_replicate_append 2 _⟩

theorem witness_ResetAbandonsTheOperation :
    (running .hardware 0 (.h3r 2 5) [.request (.strap 0#1 [⟨1⟩, ⟨2⟩, ⟨3⟩])] 0#32).busy = true ∧
    decode (.strap 0#1 [⟨1⟩, ⟨2⟩, ⟨3⟩]) = .ok (.constructManual ⟨1⟩ ⟨2⟩ ⟨3⟩) ∧
    (running .manual 0 .dec [.request (.strap 1#1 [⟨1⟩])] 0#32).busy = true ∧
    decode (.strap 1#1 [⟨1⟩]) = .ok (.constructHw ⟨1⟩) := by
  decide

theorem witness_ConfigurationHoldsUntilTheNextReset :
    (∀ l ids r, (running .manual 0 .m3 [.quiet] 0#32).host ≠ .request (.strap l ids) :: r) ∧
    ∃ t, step (running .manual 0 .m3 [.quiet] 0#32) = .next t :=
  ⟨by simp [running, rest], _, rfl⟩

theorem rest_configured (m : Mode) (host : List HostMove) (oracle : List Frame) : (rest m host oracle).Configured := by
  cases m <;> exact ⟨rfl, rfl, rfl, rfl⟩

theorem rest_controlled (m : Mode) (host : List HostMove) (oracle : List Frame) : (rest m host oracle).Controlled := by
  cases m <;> exact ⟨rfl, rfl, rfl, rfl, by simp [rest, State.constructed, Pos.started]⟩

theorem witness_OutgoingLineIsNeverDriven :
    (rest .hardware [.request (.command 0#2)] []).Configured ∧
    (∀ b, .write .mosi b ∉ (rest .hardware [.request (.command 0#2)] []).trace) ∧
    ∃ t, step (rest .hardware [.request (.command 0#2)] []) = .next t :=
  ⟨rest_configured _ _ _, by simp [rest, State.constructed], _, rfl⟩

theorem witness_StepKeepsTheConfiguration :
    (rest .manual [.request (.strap 1#1 [⟨4⟩])] []).Configured ∧
    ∃ t, step (rest .manual [.request (.strap 1#1 [⟨4⟩])] []) = .next t ∧ t.mode = .hardware :=
  ⟨rest_configured _ _ _, _, rfl, rfl⟩

/-- In the middle of an acquisition, by either strategy, control, samples and accounts are as the invariants say. -/
theorem running_manual_invariants :
    (running .manual 0b01#2 (.m2c 10) [] 0x01918003#32).Controlled ∧
    (running .manual 0b01#2 (.m2c 10) [] 0x01918003#32).HoldsSamples ∧
    (running .manual 0b01#2 (.m2c 10) [] 0x01918003#32).Accounted :=
  ⟨⟨rfl, rfl, rfl, rfl, fun _ => by decide⟩, ⟨fun _ _ => by decide, nofun, nofun⟩, ⟨rfl, by decide, by decide⟩⟩

theorem running_hardware_invariants :
    (running .hardware 0b01#2 (.h3f 2 7) [] 0x01918003#32).Controlled ∧
    (running .hardware 0b01#2 (.h3f 2 7) [] 0x01918003#32).HoldsSamples ∧
    (running .hardware 0b01#2 (.h3f 2 7) [] 0x01918003#32).Accounted :=
  ⟨⟨rfl, rfl, rfl, rfl, fun _ => by decide⟩, ⟨nofun, fun _ _ => by decide, fun _ _ => by decide⟩, ⟨rfl, by decide, by decide⟩⟩

theorem witness_StepKeepsControlAndLines :
    (running .manual 0b01#2 (.m2c 10) [] 0x01918003#32).Controlled ∧
    ∃ t, step (running .manual 0b01#2 (.m2c 10) [] 0x01918003#32) = .next t ∧ t.seq = .m2d 10 :=
  ⟨running_manual_invariants.1, _, rfl, rfl⟩

theorem witness_StepKeepsTheSamplesHeld :
    (running .hardware 0b01#2 (.h3f 2 7) [] 0x01918003#32).Controlled ∧
    (running .hardware 0b01#2 (.h3f 2 7) [] 0x01918003#32).HoldsSamples ∧
    ∃ t, step (running .hardware 0b01#2 (.h3f 2 7) [] 0x01918003#32) = .next t ∧
      t.buf = #v[0#8, 0x80#8, 0x91#8, 0x01#8] :=
  ⟨running_hardware_invariants.1, running_hardware_invariants.2.1, _, rfl, by decide⟩

theorem witness_StepKeepsTheAccounts :
    (running .manual 0b01#2 (.m2c 10) [] 0x01918003#32).Controlled ∧
    (running .manual 0b01#2 (.m2c 10) [] 0x01918003#32).Accounted ∧
    ∃ t, step (running .manual 0b01#2 (.m2c 10) [] 0x01918003#32) = .next t ∧ t.trace.countP Event.isSample = 11 :=
  ⟨running_manual_invariants.1, running_manual_invariants.2.2, _, rfl, by decide⟩

theorem witness_AcquiredFrameIsTheSampledFrame :
    (running .manual 0b01#2 .dec [] 0x01918003#32).Controlled ∧
    (running .manual 0b01#2 .dec [] 0x01918003#32).HoldsSamples ∧
    (running .hardware 0b01#2 .dec [] 0x1234ABC8#32).Controlled ∧
    (running .hardware 0b01#2 .dec [] 0x1234ABC8#32).HoldsSamples ∧
    (running .hardware 0b01#2 .dec [] 0x1234ABC8#32).acquired = 0x1234ABC8#32 :=
  ⟨⟨rfl, rfl, rfl, rfl, fun _ => by decide⟩, ⟨fun _ _ => by decide, nofun, nofun⟩,
    ⟨rfl, rfl, rfl, rfl, fun _ => by decide⟩, ⟨nofun, fun _ _ => by decide, fun _ _ => by decide⟩, by decide⟩

theorem witness_SamplesAreTakenOnlyWhileSelected :
    (running .manual 0b01#2 (.m2c 10) [] 0x01918003#32).Controlled ∧
    ∃ t, step (running .manual 0b01#2 (.m2c 10) [] 0x01918003#32) = .next t ∧
      (running .manual 0b01#2 (.m2c 10) [] 0x01918003#32).trace.countP Event.isSample < t.trace.countP Event.isSample :=
  ⟨running_manual_invariants.1, _, rfl, by decide⟩

theorem witness_AcquisitionEndsAfterItsFixedSteps :
    ((running .manual 0 .m1a [] 0#32).mode = .manual ∧ (running .manual 0 .m1a [] 0#32).busy = true ∧
      (running .manual 0 .m1a [] 0#32).seq = .m1a ∧ quietFor 165 (running .manual 0 .m1a [] 0#32).host) ∧
    ((running .hardware 0 .h2a [] 0#32).mode = .hardware ∧ (running .hardware 0 .h2a [] 0#32).busy = true ∧
      (running .hardware 0 .h2a [] 0#32).seq = .h2a ∧ quietFor 67 (running .hardware 0 .h2a [] 0#32).host) ∧
    ((running .manual 0b01#2 (.m2c 10) [] 0x01918003#32).Controlled ∧ 110 ≤ (Pos.m2c 10).stepsLeft ∧
      quietFor 110 (running .manual 0b01#2 (.m2c 10) [] 0x01918003#32).host) :=
  ⟨⟨rfl, rfl, rfl, quietFor_nil _⟩, ⟨rfl, rfl, rfl, quietFor_nil _⟩, running_manual_invariants.1, by decide, quietFor_nil _⟩

theorem witness_ServedHostIsNeverRefused :
    (rest .hardware [.quiet, .request (.command 0b01#2), .quiet, .request (.strap 1#1 [⟨1⟩])] []).Controlled ∧
    (rest .hardware [.quiet, .request (.command 0b01#2), .quiet, .request (.strap 1#1 [⟨1⟩])] []).served = true :=
  ⟨rest_controlled _ _ _, by decide⟩

/-- A command one step too early is no served host. -/
theorem test_served_excludes_command_while_busy :
    (running .hardware 0b01#2 .dec [.request (.command 0b01#2)] 0#32).served = false ∧
    (running .hardware 0b01#2 .dec [.quiet, .request (.command 0b01#2)] 0#32).served = true := by
  decide

theorem witness_PeerNeverSteersControl :
    ∃ t, step (running .manual 0b01#2 (.m2c 31) [] 0xFFFFFFFF#32) = .next t ∧ t.acc = 0xFFFFFFFF#32 :=
  ⟨_, rfl, by decide⟩

/-- The reference peer answers with its own word, and with no other. -/
theorem witness_BothStrategiesReadTheReferencePeer :
    (⟨0x1234ABC8#32, 0#32, true, true⟩ : Peer).cs = true ∧
    (⟨0x1234ABC8#32, 0#32, true, true⟩ : Peer).answers (eventsOf .hardware 0x1234ABC8#32) = true ∧
    (⟨0x1234ABC8#32, 0#32, true, false⟩ : Peer).answers (eventsOf .manual 0x1234ABC9#32) = false :=
  ⟨rfl, rfl, rfl⟩

end Sys2Proof.Tests
end

section
/-!
The configuration and `MOSI` (`10_state.md` section 2, R23 and R27): a step that is no construction leaves them as they
are and writes no event of `MOSI`, because no position of the sequencer has a micro-operation that drives it.
-/

namespace Sys2Proof.Machine

/-! ### The outgoing data line -/

/-- No position's micro-operation drives `MOSI` (R27). -/
theorem Pos.op_ne_drive_mosi (p : Pos) (b : Level) : p.op ≠ some (.drive .mosi b) := by
  cases p <;> simp [Pos.op]

/-- A micro-operation that is no drive of `MOSI` leaves its level. -/
theorem MicroOp.perform_mosi {o : MicroOp} (h : ∀ b, o ≠ .drive .mosi b) (s : State) :
    (o.perform s).mosi = s.mosi := by
  cases o with
  | drive l b =>
    cases l with
    | cs => rfl
    | sck => rfl
    | mosi => exact absurd rfl (h b)
  | settle => simp [MicroOp.perform, settleDelay]
  | shiftSample i => simp [MicroOp.perform]
  | riseSample i => simp [MicroOp.perform]
  | fall k j => simp [MicroOp.perform]

/-- A micro-operation that is no drive of `MOSI` does not append a write of `MOSI`. -/
theorem MicroOp.countP_isMosiWrite_perform {o : MicroOp} (h : ∀ b, o ≠ .drive .mosi b) (s : State) :
    (o.perform s).trace.countP Event.isMosiWrite = s.trace.countP Event.isMosiWrite := by
  cases o with
  | drive l b =>
    cases l with
    | cs => simp [MicroOp.perform, driveLine, Event.isMosiWrite]
    | sck => simp [MicroOp.perform, driveLine, Event.isMosiWrite]
    | mosi => exact absurd rfl (h b)
  | settle => simp [MicroOp.perform, settleDelay, Event.isMosiWrite]
  | shiftSample i => simp [MicroOp.perform, Event.isMosiWrite]
  | riseSample i => simp [MicroOp.perform, Event.isMosiWrite]
  | fall k j => simp [MicroOp.perform, Event.isMosiWrite]

@[simp] theorem sequencerStep_mosi (s : State) : (sequencerStep s).mosi = s.mosi := by
  rcases ho : s.seq.op with _ | o
  · rw [sequencerStep_of_no_op ho]
  · have hne : ∀ b, o ≠ .drive .mosi b := fun b hb => s.seq.op_ne_drive_mosi b (hb ▸ ho)
    simp [sequencerStep_of_op ho, MicroOp.perform_mosi hne]

@[simp] theorem countP_isMosiWrite_sequencerStep (s : State) :
    (sequencerStep s).trace.countP Event.isMosiWrite = s.trace.countP Event.isMosiWrite := by
  rcases ho : s.seq.op with _ | o
  · rw [sequencerStep_of_no_op ho]
  · have hne : ∀ b, o ≠ .drive .mosi b := fun b hb => s.seq.op_ne_drive_mosi b (hb ▸ ho)
    simp [sequencerStep_of_op ho, MicroOp.countP_isMosiWrite_perform hne]

/-- A trace counts no write of `MOSI` exactly when it has no event `W(MOSI, b)`. -/
theorem countP_isMosiWrite_eq_zero_iff (es : List Event) :
    es.countP Event.isMosiWrite = 0 ↔ ∀ b, .write .mosi b ∉ es := by
  rw [List.countP_eq_zero]
  constructor
  · intro h b hb
    exact h _ hb rfl
  · intro h e he hw
    unfold Event.isMosiWrite at hw
    split at hw
    · exact h _ he
    all_goals cases hw

/-! ### What a step does to the configuration -/

/-- `t` has the configuration of `s` (R21, R22, R24), its level of `MOSI`, and no further write of `MOSI`. -/
structure State.SameConfiguration (s t : State) : Prop where
  mode : t.mode = s.mode
  csId : t.csId = s.csId
  clkId : t.clkId = s.clkId
  misoId : t.misoId = s.misoId
  bus : t.bus = s.bus
  mosi : t.mosi = s.mosi
  mosiWrites : t.trace.countP Event.isMosiWrite = s.trace.countP Event.isMosiWrite

/-- A step either keeps the configuration and `MOSI` or is the construction that the host's strap asks for. -/
theorem step_sameConfiguration_or_construct {s t : State} (h : step s = .next t) :
    s.SameConfiguration t ∨
    ∃ l ids rest m clk cs miso, s.host = .request (.strap l ids) :: rest ∧ t = construct m clk cs miso s.tick := by
  obtain ⟨-, rfl⟩ | ⟨c, rest, -, -, rfl⟩ | ⟨-, -, rfl⟩ | ⟨-, -, rfl⟩ | hconstruct := step_cases h
  case inr.inr.inr.inr => exact .inr hconstruct
  all_goals exact .inl (by constructor <;> simp [Event.isMosiWrite])

/-- A configured instance has `MOSI`, at level 0, exactly in `HARDWARE` mode. -/
theorem State.Configured.mosi_eq {s : State} (h : s.Configured) :
    s.mosi = if s.mode = .manual then none else some false := by
  rw [h.mosi]
  cases s.mode <;> rfl

/-- An instance just constructed has `MOSI` likewise. -/
theorem construct_mosi (m : Mode) (clk cs miso : LineId) (s : State) :
    (construct m clk cs miso s).mosi = if m = .manual then none else some false := by
  cases m <;> rfl

/-! ### The statements -/

/-- Settles O47: a step keeps the configuration unless the host's move is a strap, which the premise excludes. -/
theorem configurationHoldsUntilTheNextReset : Obligations.ConfigurationHoldsUntilTheNextReset := by
  intro s t hno h
  obtain hsame | ⟨l, ids, rest, _, _, _, _, hstrap, -⟩ := step_sameConfiguration_or_construct h
  · exact ⟨hsame.mode, hsame.csId, hsame.clkId, hsame.misoId, hsame.bus⟩
  · exact absurd hstrap (hno l ids rest)

/-- Settles O48: a step keeps `MOSI` and the count of its writes, or constructs, which sets it anew and empties the
trace. -/
theorem outgoingLineIsNeverDriven : Obligations.OutgoingLineIsNeverDriven := by
  intro s t hconf hno h
  obtain hsame | ⟨_, _, _, m, clk, cs, miso, -, rfl⟩ := step_sameConfiguration_or_construct h
  · constructor
    · rw [hsame.mosi, hsame.mode, hconf.mosi_eq]
    · rwa [← countP_isMosiWrite_eq_zero_iff, hsame.mosiWrites, countP_isMosiWrite_eq_zero_iff]
  · exact ⟨construct_mosi m clk cs miso s.tick, by simp⟩

/-- Settles O45: what the table (R37) fixes outright holds by computation; what is there in one mode only is read off for
each strap. -/
theorem resetStateIsTheTableOfResetValues : Obligations.ResetStateIsTheTableOfResetValues := by
  unfold Obligations.ResetStateIsTheTableOfResetValues State.reset
  cases Config.strap <;> simp [State.constructed]

end Sys2Proof.Machine
end

section
/-!
The frame on the wire (`20_memory.md` section 2, R51 and R53): the frame that samples make has them as its bits, the
first one on top; the receive buffer reads as the concatenation of its bytes, so the holding register of either
strategy is the sampled frame once all of it is there.
-/

namespace Sys2Proof.Machine

/-! ### The frame that samples make -/

/-- The number with the bits `f i` is the sum of their weights. -/
theorem ofBits_eq_sum {n : Nat} (f : Fin n → Bool) : Nat.ofBits f = ∑ i, (f i).toNat * 2 ^ i.val := by
  induction n with
  | zero => rfl
  | succ n ih =>
    rw [Nat.ofBits_succ, ih, Fin.sum_univ_succ, Finset.mul_sum, add_comm]
    congr 1
    · simp
    · refine Finset.sum_congr rfl fun i _ => ?_
      rw [Function.comp_apply, Fin.val_succ, pow_succ]
      ring

/-- Bits that come most significant first make the sum in which bit `i` of `n` has weight `2^(n - 1 - i)`. -/
theorem ofBits_rev_eq_sum {n : Nat} (f : Fin n → Bool) :
    Nat.ofBits (f ∘ Fin.rev) = ∑ i, (f i).toNat * 2 ^ (n - 1 - i.val) := by
  rw [ofBits_eq_sum, ← Equiv.sum_comp Fin.revPerm]
  refine Finset.sum_congr rfl fun i _ => ?_
  have hweight : n - (i.val + 1) = n - 1 - i.val := by omega
  simp [Fin.val_rev, hweight]

/-- The samples are the frame's bits, most significant first (R51). -/
theorem frameValue_eq_ofFnBE (f : Fin 32 → Level) : frameValue f = BitVec.ofFnBE f := by
  apply BitVec.eq_of_toNat_eq
  rw [frameValue, BitVec.toNat_ofNat, ← Fin.sum_univ_def, ← ofBits_rev_eq_sum, ← BitVec.toNat_ofFnBE]
  exact Nat.mod_eq_of_lt (BitVec.isLt _)

theorem toNat_frameValue (f : Fin 32 → Level) :
    (frameValue f).toNat = ∑ i, (f i).toNat * 2 ^ (31 - i.val) := by
  rw [frameValue_eq_ofFnBE, BitVec.toNat_ofFnBE, ofBits_rev_eq_sum]

theorem getLsbD_frameValue (f : Fin 32 → Level) (i : Fin 32) : (frameValue f).getLsbD (31 - i.val) = f i := by
  have hlt : 31 - i.val < 32 := by omega
  rw [frameValue_eq_ofFnBE, BitVec.getLsbD_ofFnBE, dif_pos hlt]
  congr 1
  apply Fin.ext
  rw [Fin.val_rev, Fin.val_mk]
  omega

/-! ### The frame in the receive buffer -/

/-- A concatenation, widened, is its upper part shifted over its lower part. -/
theorem setWidth_append_eq_shiftLeft_or {m n : Nat} (w : Nat) (x : BitVec m) (y : BitVec n) :
    (x ++ y).setWidth w = (x.setWidth w <<< n) ||| y.setWidth w := by
  ext i hi
  rcases Nat.lt_or_ge i n with hlow | hhigh
  · simp [BitVec.getElem_setWidth, BitVec.getLsbD_append, hlow]
  · simp [BitVec.getElem_setWidth, BitVec.getLsbD_append, hhigh]

/-- The shifts of R53 give the concatenation, `BUF[3]` most significant. -/
theorem bufferFrame_eq_append (b : Vector Byte 4) :
    bufferFrame b = (((b[3] ++ b[2]) ++ b[1]) ++ b[0] : BitVec 32) := by
  rw [← BitVec.setWidth_eq (((b[3] ++ b[2]) ++ b[1]) ++ b[0] : BitVec 32)]
  simp only [setWidth_append_eq_shiftLeft_or, BitVec.shiftLeft_or_distrib, ← BitVec.shiftLeft_add, bufferFrame]

/-- A buffer that holds each byte of a frame in its place (R52) reads as that frame. -/
theorem bufferFrame_eq_of_bytes {b : Vector Byte 4} {v : Frame}
    (hbytes : ∀ k : Fin 4, b[3 - k.val] = v.extractLsb' (24 - 8 * k.val) 8) : bufferFrame b = v := by
  have h3 : b[3] = v.extractLsb' 24 8 := hbytes 0
  have h2 : b[2] = v.extractLsb' 16 8 := hbytes 1
  have h1 : b[1] = v.extractLsb' 8 8 := hbytes 2
  have h0 : b[0] = v.extractLsb' 0 8 := hbytes 3
  rw [bufferFrame_eq_append, h3, h2, h1, h0,
    BitVec.extractLsb'_append_extractLsb'_eq_extractLsb' (show 24 = 16 + 8 from rfl),
    BitVec.extractLsb'_append_extractLsb'_eq_extractLsb' (show 16 = 8 + 8 from rfl),
    BitVec.extractLsb'_append_extractLsb'_eq_extractLsb' (show 8 = 0 + 8 from rfl)]
  exact BitVec.extractLsb'_eq_self

/-! ### The acquired frame -/

/-- At `DEC` all 32 samples are taken and all four bytes placed, so either strategy holds the sampled frame. -/
theorem State.HoldsSamples.acquired_eq_frameNow {s : State} (h : s.HoldsSamples) (hdec : s.seq = .dec) :
    s.acquired = s.frameNow := by
  have hstarted : s.seq.started = true := by rw [hdec]; rfl
  rcases hmode : s.mode with _ | _
  · have hacc := h.acc hmode hstarted
    simpa [State.acquired, hmode, hdec, Pos.taken] using hacc
  · have hplaced : s.seq.placed = 4 := by rw [hdec]; rfl
    have hbytes (k : Fin 4) := h.buf hmode hstarted k (by omega)
    simpa [State.acquired, hmode] using bufferFrame_eq_of_bytes hbytes

/-! ### The statements -/

/-- Settles O21: the shifts are how the frame is assembled, and they are the concatenation. -/
theorem bufferIsAssembledByPosition : Obligations.BufferIsAssembledByPosition :=
  fun b => ⟨rfl, bufferFrame_eq_append b⟩

/-- Settles O54: at `DEC` the acquired frame is the one that this acquisition's samples make, with sample `i` as its
bit `31 - i`. -/
theorem acquiredFrameIsTheSampledFrame : Obligations.AcquiredFrameIsTheSampledFrame := by
  intro s _ hholds hdec
  have hacq : s.acquired = frameValue (s.sampleAt (s.frameNo - 1)) := hholds.acquired_eq_frameNow hdec
  rw [hacq]
  exact ⟨toNat_frameValue _, getLsbD_frameValue _⟩

end Sys2Proof.Machine
end

section
/-!
The decoder as a function of the fields of a frame (`30_encoding.md` R70 to R77): which bits each field reads, how the
four readings and the four results follow from the fault code and the counts, the ranges of the counts, and that 18
bits hold each of them.
-/

namespace Sys2Proof.Machine

/-! ### The fields -/

/-- Frames that agree on the bits of a field have the same field. -/
theorem extractLsb'_congr_bits {v w : Frame} {start len : Nat}
    (h : ∀ i, i < len → w.getLsbD (start + i) = v.getLsbD (start + i)) :
    w.extractLsb' start len = v.extractLsb' start len := by
  ext i hi
  simpa [BitVec.getElem_extractLsb'] using h i hi

theorem probeCount_congr {v w : Frame} (h : probeField w = probeField v) : probeCount w = probeCount v := by
  rw [probeCount, h, probeCount]

theorem internalCount_congr {v w : Frame} (hneg : negField w = negField v) (hmag : magField w = magField v) :
    internalCount w = internalCount v := by
  rw [internalCount, hneg, hmag, internalCount]

/-! ### The ranges of the counts (R71, R75) -/

theorem probeCount_range (v : Frame) : -8192 ≤ probeCount v ∧ probeCount v ≤ 8191 := by
  have hlo : -8192 ≤ probeCount v := BitVec.le_toInt (probeField v)
  have hhi : probeCount v < 8192 := BitVec.toInt_lt
  omega

theorem fahrenheitCount_range (v : Frame) : -73088 ≤ fahrenheitCount v ∧ fahrenheitCount v ≤ 74359 := by
  have hprobe := probeCount_range v
  unfold fahrenheitCount
  omega

theorem internalCount_range (v : Frame) : -2047 ≤ internalCount v ∧ internalCount v ≤ 2047 := by
  have hmag : (magField v).toNat < 2048 := (magField v).isLt
  unfold internalCount
  split <;> omega

/-! ### The readings, by the fault code (R123, R125) -/

theorem faulted_eq_true_iff (v : Frame) : faulted v = true ↔ faultCode v ≠ 0#3 :=
  bne_iff_ne

theorem probeCelsius_eq (v : Frame) :
    probeCelsius v = if faultCode v = 0#3 then .value ((probeCount v : ℚ) * (1 / 4)) else .invalid := by
  simp only [probeCelsius, faulted_eq_true_iff, ite_not]

/-- Nine fifths of the quarters, and 32 degrees, are the Fahrenheit count of twentieths. -/
theorem fahrenheitCount_mul_unit (v : Frame) :
    (probeCount v : ℚ) * (1 / 4) * (9 / 5) + 32 = (fahrenheitCount v : ℚ) * (1 / 20) := by
  unfold fahrenheitCount
  push_cast
  ring

theorem probeFahrenheit_eq (v : Frame) :
    probeFahrenheit v = if faultCode v = 0#3 then .value ((fahrenheitCount v : ℚ) * (1 / 20)) else .invalid := by
  rw [probeFahrenheit, probeCelsius_eq]
  by_cases hcode : faultCode v = 0#3
  · simp only [if_pos hcode, fahrenheitCount_mul_unit]
  · simp only [if_neg hcode]

/-! ### The results, by the fault code (R75) -/

theorem resultCelsius_eq (v : Frame) :
    resultCelsius v = if faultCode v = 0#3 then Result.count (probeCount v) else Result.sentinel := by
  rw [resultCelsius, probeCelsius_eq]
  by_cases hcode : faultCode v = 0#3 <;> simp [hcode]

theorem resultFahrenheit_eq (v : Frame) :
    resultFahrenheit v = if faultCode v = 0#3 then Result.count (fahrenheitCount v) else Result.sentinel := by
  rw [resultFahrenheit, probeFahrenheit_eq]
  by_cases hcode : faultCode v = 0#3 <;> simp [hcode]

@[simp] theorem Result.count_valid (n : ℤ) : (Result.count n).valid = true := rfl

@[simp] theorem Result.sentinel_valid : Result.sentinel.valid = false := rfl

@[simp] theorem Result.sentinel_data : Result.sentinel.data = 0#18 := rfl

/-- `RES_DATA` is two's complement of 18 bits, so it holds a count from `-2^17` to `2^17 - 1`. -/
theorem Result.toInt_count_data {n : ℤ} (hlo : -131072 ≤ n) (hhi : n < 131072) : (Result.count n).data.toInt = n := by
  have hbmod : n.bmod (2 ^ 18) = n := Int.bmod_eq_of_le hlo hhi
  rw [Result.count, BitVec.toInt_ofInt, hbmod]

theorem toInt_count_probeCount (v : Frame) : (Result.count (probeCount v)).data.toInt = probeCount v := by
  have hrange := probeCount_range v
  exact Result.toInt_count_data (by omega) (by omega)

theorem toInt_count_fahrenheitCount (v : Frame) :
    (Result.count (fahrenheitCount v)).data.toInt = fahrenheitCount v := by
  have hrange := fahrenheitCount_range v
  exact Result.toInt_count_data (by omega) (by omega)

theorem resultInternal_toInt (v : Frame) : (resultInternal v).data.toInt = internalCount v := by
  have hrange := internalCount_range v
  exact Result.toInt_count_data (by omega) (by omega)

theorem resultError_toNat (v : Frame) : (resultError v).data.toNat = (faultCode v).toNat :=
  BitVec.toNat_setWidth_of_le (by omega)

theorem resultError_toInt (v : Frame) : (resultError v).data.toInt = ((faultCode v).toNat : ℤ) := by
  have hcode : (faultCode v).toNat < 8 := (faultCode v).isLt
  have hdata := resultError_toNat v
  rw [BitVec.toInt_eq_toNat_of_lt (by omega), hdata]

/-! ### The statements -/

/-- Settles O15: no field holds bit 3, 16 or 17, and every function is one of the fault code, the probe count and the
internal count. -/
theorem unusedFrameBitsHaveNoEffect : Obligations.UnusedFrameBitsHaveNoEffect := by
  intro v w hbits
  have hcode : faultCode w = faultCode v :=
    extractLsb'_congr_bits fun i hi => hbits _ (by omega) (by omega) (by omega)
  have hprobe : probeCount w = probeCount v :=
    probeCount_congr (extractLsb'_congr_bits fun i hi => hbits _ (by omega) (by omega) (by omega))
  have hmag : magField w = magField v :=
    extractLsb'_congr_bits fun i hi => hbits _ (by omega) (by omega) (by omega)
  have hneg : negField w = negField v := hbits 15 (by decide) (by decide) (by decide)
  have hinternal : internalCount w = internalCount v := internalCount_congr hneg hmag
  simp only [probeCelsius_eq, probeFahrenheit_eq, internalCelsius, resultInternal, resultCelsius_eq,
    resultFahrenheit_eq, resultError, fahrenheitCount, hcode, hprobe, hinternal, and_self]

/-- Settles O17: each result's data is the operation's count, which is in its range; a fault code other than 0 leaves
the sentinel. The probe field `0x1FFF` gives 74359, which 17 bits do not hold. -/
theorem resultsStandForTheReadings : Obligations.ResultsStandForTheReadings := by
  refine ⟨fun v => ⟨?internal, ?celsius, ?fahrenheit, ?error⟩, 0x7FFC0000#32, by decide, by decide⟩
  case internal =>
    rw [resultInternal_toInt]
    exact ⟨rfl, rfl, internalCount_range v⟩
  case celsius =>
    rw [probeCelsius_eq, resultCelsius_eq]
    by_cases hcode : faultCode v = 0#3
    · simp [hcode, toInt_count_probeCount, probeCount_range v]
    · simp [hcode]
  case fahrenheit =>
    rw [probeFahrenheit_eq, resultFahrenheit_eq, ← fahrenheitCount]
    by_cases hcode : faultCode v = 0#3
    · simp [hcode, toInt_count_fahrenheitCount, fahrenheitCount_range v]
    · simp [hcode]
  case error =>
    have hcode : (faultCode v).toNat < 8 := (faultCode v).isLt
    rw [resultError_toInt, resultError_toNat]
    exact ⟨rfl, rfl, by omega⟩

/-- Settles O1: each of the four codes is looked up in the opcode map (R73). -/
theorem commandCodesDecodeAsTheOpcodeMap : Obligations.CommandCodesDecodeAsTheOpcodeMap :=
  ⟨rfl, rfl, rfl, rfl⟩

end Sys2Proof.Machine
end

section
/-!
The transport (`40_transport.md`): the micro-operations as updates of the state (R92 to R95), where the shift and OR of
a sample are doubling and addition modulo the register's width; and the countdown of a running operation to its end
(R112), from which the fixed length of an acquisition follows.
-/

namespace Sys2Proof.Machine

/-! ### Taking a sample into a register -/

/-- A sample enters at bit 0 of a register shifted left: the shift and the OR are the library's `shiftConcat`. -/
theorem shiftLeft_one_or_ofBool {w : Nat} (x : BitVec w) (b : Level) :
    (x <<< 1) ||| (BitVec.ofBool b).setWidth w = x.shiftConcat b := by
  have happend := setWidth_append_eq_shiftLeft_or w x (BitVec.ofBool b)
  rw [BitVec.setWidth_eq] at happend
  exact happend.symm

/-- The shift leaves bit 0 clear, so the OR adds the sample, and the register is doubled modulo its width. -/
theorem shiftLeft_one_or_ofBool_eq_ofNat {w : Nat} (x : BitVec w) (b : Level) :
    (x <<< 1) ||| (BitVec.ofBool b).setWidth w = BitVec.ofNat w (2 * x.toNat + b.toNat) := by
  apply BitVec.eq_of_toNat_eq
  rw [shiftLeft_one_or_ofBool, BitVec.toNat_shiftConcat, BitVec.toNat_ofNat, Nat.shiftLeft_eq, pow_one, Nat.mul_comm]

/-! ### The countdown of a running operation -/

/-- Every position of an acquisition has a successor that is not rest: `DEC` alone leads there. -/
theorem Pos.next_ne_idle {p : Pos} (hi : p ≠ .idle) (hd : p ≠ .dec) : p.next ≠ .idle := by
  cases p with
  | idle => exact absurd rfl hi
  | dec => exact absurd rfl hd
  | m2e i => simp only [Pos.next]; split_ifs <;> nofun
  | h3f k j => simp only [Pos.next]; split_ifs <;> nofun
  | _ => nofun

/-- Where steps are left the sequencer is not at rest. -/
theorem Pos.ne_idle_of_stepsLeft_pos {p : Pos} (h : 0 < p.stepsLeft) : p ≠ .idle :=
  mt (Pos.stepsLeft_eq_zero_iff p).mpr h.ne'

/-- Exactly at `DEC` one step is left. -/
theorem Pos.stepsLeft_eq_one_iff (p : Pos) : p.stepsLeft = 1 ↔ p = .dec := by
  cases p <;> simp [Pos.stepsLeft] <;> omega

/-- A quiet step of a running operation, the decode among them, goes to the successor, and `BUSY` stays 1 exactly while
that is not rest. -/
theorem step_running_seq {s : State} (hb : s.busy = decide (s.seq ≠ .idle)) (hi : s.seq ≠ .idle)
    (hq : s.host.getD 0 .quiet = .quiet) :
    ∃ t, step s = .next t ∧ t.seq = s.seq.next ∧ t.busy = decide (t.seq ≠ .idle) ∧ t.host = s.host.tail := by
  have hbusy : s.busy = true := by simpa [hi] using hb
  by_cases hd : s.seq = .dec
  · exact ⟨_, step_delivering hbusy hd hq, by simp [hd, Pos.next], by simp, by simp⟩
  · have hseq : (sequencerStep s.tick).seq = s.seq.next := sequencerStep_seq (s := s.tick) hi hd
    exact ⟨_, step_sequencing hbusy hd hq, hseq, by simp [hseq, hbusy, Pos.next_ne_idle hi hd], by simp⟩

/-- Up to the end of the operation, `n` quiet steps bring its end nearer by `n` (R112). -/
theorem run_stepsLeft {n : Nat} {s : State} (hb : s.busy = decide (s.seq ≠ .idle)) (hn : n ≤ s.seq.stepsLeft)
    (hq : quietFor n s.host) : ∃ t, run n s = .next t ∧ t.seq.stepsLeft + n = s.seq.stepsLeft := by
  induction n generalizing s with
  | zero => exact ⟨s, run_zero s, rfl⟩
  | succ n ih =>
    have hi : s.seq ≠ .idle := Pos.ne_idle_of_stepsLeft_pos (by omega)
    obtain ⟨u, hstep, hseq, hbu, hhost⟩ := step_running_seq hb hi (quietFor_head hq)
    have hleft : u.seq.stepsLeft + 1 = s.seq.stepsLeft := hseq ▸ Pos.stepsLeft_next hi
    obtain ⟨t, hrun, ht⟩ := ih hbu (by omega) (hhost ▸ quietFor_tail hq)
    exact ⟨t, (run_succ_of_step hstep).trans hrun, by omega⟩

/-- A running operation with `n + 1` steps left is at `DEC` after `n` quiet ones. -/
theorem run_to_dec {n : Nat} {s : State} (hb : s.busy = true) (hleft : s.seq.stepsLeft = n + 1)
    (hq : quietFor n s.host) : ∃ t, run n s = .next t ∧ t.seq = .dec := by
  have hi : s.seq ≠ .idle := Pos.ne_idle_of_stepsLeft_pos (by omega)
  obtain ⟨t, hrun, ht⟩ := run_stepsLeft (by simp [hb, hi]) (by omega) hq
  exact ⟨t, hrun, (Pos.stepsLeft_eq_one_iff _).mp (by omega)⟩

/-! ### The statements -/

/-- Settles O24: the shift and OR on 32 bits are doubling and addition. -/
theorem shiftSampleDoublesAndAdds : Obligations.ShiftSampleDoublesAndAdds := by
  intro i s
  rw [← shiftLeft_one_or_ofBool_eq_ofNat]
  rfl

/-- Settles O25: the shift and OR on 8 bits are doubling and addition; the edge's event comes before the sample's. -/
theorem riseSampleRaisesTheClockAndShifts : Obligations.RiseSampleRaisesTheClockAndShifts := by
  intro i s
  rw [← shiftLeft_one_or_ofBool_eq_ofNat, ← riseSample_trace]
  rfl

/-- Settles O56: 166 steps are left at `M1a` and 68 at `H2a`, the last of them the decode; the countdown is
`run_stepsLeft`. -/
theorem acquisitionEndsAfterItsFixedSteps : Obligations.AcquisitionEndsAfterItsFixedSteps := by
  refine ⟨?manual, ?hardware, ?countdown⟩
  case manual =>
    intro s _ hb hseq hq
    exact run_to_dec hb (by rw [hseq]; rfl) hq
  case hardware =>
    intro s _ hb hseq hq
    exact run_to_dec hb (by rw [hseq]; rfl) hq
  case countdown =>
    intro s n hctl hn hq
    exact run_stepsLeft hctl.busy hn hq

/-- Settles O22: either drive is its line write, whose update does not look at the line's old level. -/
theorem driveWritesItsLineAndNothingElse : Obligations.DriveWritesItsLineAndNothingElse :=
  fun _ _ => ⟨rfl, rfl⟩

/-- Settles O23: a settling delay is the logging of `D`. -/
theorem settleOnlyAppendsADelay : Obligations.SettleOnlyAppendsADelay :=
  fun _ => rfl

end Sys2Proof.Machine
end

section
/-!
The frame decoder against the masks and shifts that state it (`41_decoder.md`): a shift and a mask read a field of the
frame; the fault code and its bits (R121, R122), the probe count and the formulations of its sign (R123, R124), and the
internal count as sign and magnitude (R126, R132).
-/

namespace Sys2Proof.Machine

/-! ### A shift and a mask read a field -/

theorem toNat_extractLsb'_eq_toNat_mask (v : Frame) (start : Nat) {len : Nat} (hlen : len ≤ 32) :
    (v.extractLsb' start len).toNat = ((v >>> start) &&& BitVec.ofNat 32 (2 ^ len - 1)).toNat := by
  have hmask : 2 ^ len - 1 < 2 ^ 32 :=
    (Nat.sub_one_lt (Nat.two_pow_pos len).ne').trans_le (Nat.pow_le_pow_right two_pos hlen)
  rw [BitVec.extractLsb'_toNat, BitVec.toNat_and, BitVec.toNat_ushiftRight, BitVec.toNat_ofNat,
    Nat.mod_eq_of_lt hmask, Nat.and_two_pow_sub_one_eq_mod]

theorem extractLsb'_eq_iff_mask_eq {v w : Frame} (start : Nat) {len : Nat} (hlen : len ≤ 32) :
    w.extractLsb' start len = v.extractLsb' start len ↔
      (w >>> start) &&& BitVec.ofNat 32 (2 ^ len - 1) = (v >>> start) &&& BitVec.ofNat 32 (2 ^ len - 1) := by
  rw [← BitVec.toNat_inj, toNat_extractLsb'_eq_toNat_mask w start hlen, toNat_extractLsb'_eq_toNat_mask v start hlen,
    BitVec.toNat_inj]

/-! ### The fault code (R121, R122) -/

theorem toNat_faultCode_eq_toNat_and (v : Frame) : (faultCode v).toNat = (v &&& 0x7#32).toNat :=
  toNat_extractLsb'_eq_toNat_mask v 0 (by decide)

theorem toNat_faultCode (v : Frame) : (faultCode v).toNat = v.toNat % 8 :=
  BitVec.extractLsb'_toNat 0 3 v

theorem faultCode_eq_iff {v w : Frame} : faultCode w = faultCode v ↔ w &&& 0x7#32 = v &&& 0x7#32 :=
  extractLsb'_eq_iff_mask_eq 0 (by decide)

theorem faultCode_eq_zero_iff (v : Frame) : faultCode v = 0#3 ↔ v &&& 0x7#32 = 0#32 :=
  faultCode_eq_iff (v := 0#32)

theorem getLsbD_faultCode (v : Frame) {i : Nat} (hi : i < 3) : (faultCode v).getLsbD i = v.getLsbD i := by
  simp [faultCode, faultField, hi]

/-- The bits of a code weigh 1, 2 and 4. -/
theorem toNat_eq_sum_three_bits (x : BitVec 3) :
    x.toNat = 4 * (x.getLsbD 2).toNat + 2 * (x.getLsbD 1).toNat + (x.getLsbD 0).toNat := by
  decide +revert

/-! ### The probe count (R123, R124) -/

theorem probeField_eq_setWidth (v : Frame) : probeField v = (v >>> 18).setWidth 14 :=
  BitVec.setWidth_ushiftRight_eq_extractLsb.symm

theorem toNat_probeField (v : Frame) : (probeField v).toNat = (v >>> 18).toNat := by
  have hlt : (v >>> 18).toNat < 2 ^ 14 := by
    rw [BitVec.toNat_ushiftRight, Nat.shiftRight_eq_div_pow]
    omega
  rw [probeField_eq_setWidth, BitVec.toNat_setWidth, Nat.mod_eq_of_lt hlt]

/-- The field's sign is bit 31 of the frame. -/
theorem probeField_msb (v : Frame) : (probeField v).msb = v.getLsbD 31 := by
  rw [probeField_eq_setWidth, BitVec.msb_setWidth'', BitVec.getLsbD_ushiftRight]

theorem probeCount_eq_sub (v : Frame) :
    probeCount v = ((v >>> 18).toNat : ℤ) - (if v.getLsbD 31 then 16384 else 0) := by
  rw [probeCount, BitVec.toInt_eq_msb_cond, probeField_msb, toNat_probeField]
  split <;> simp

/-- The weight of the sign bit, `2^32`, is `2^18` times 16384, so the division rounds the unsigned part alone. -/
theorem probeCount_eq_toInt_div (v : Frame) : probeCount v = v.toInt / 2 ^ 18 := by
  have hmsb : v.msb = v.getLsbD 31 := BitVec.msb_eq_getLsbD_last v
  rw [probeCount_eq_sub, BitVec.toInt_eq_msb_cond, hmsb, BitVec.toNat_ushiftRight, Nat.shiftRight_eq_div_pow]
  split <;> omega

theorem toInt_sshiftRight_eq_div (v : Frame) (n : Nat) : (v.sshiftRight n).toInt = v.toInt / 2 ^ n := by
  rw [BitVec.toInt_sshiftRight, Int.shiftRight_eq_div_pow]
  norm_cast

/-! ### The internal count (R126) -/

theorem toNat_magField (v : Frame) : (magField v).toNat = ((v >>> 4) &&& 0x7FF#32).toNat :=
  toNat_extractLsb'_eq_toNat_mask v 4 (by decide)

theorem negField_eq_getLsbD (v : Frame) : negField v = (v >>> 4).getLsbD 11 :=
  (BitVec.getLsbD_ushiftRight v 4 11).symm

theorem magField_eq_zero_iff (v : Frame) : magField v = 0#11 ↔ (v >>> 4) &&& 0x7FF#32 = 0#32 :=
  extractLsb'_eq_iff_mask_eq (v := 0#32) 4 (by decide)

/-- The sign and the magnitude are the parts of `v[15:4]`. -/
theorem internalCount_congr_of_mask {v w : Frame} (h : (w >>> 4) &&& 0xFFF#32 = (v >>> 4) &&& 0xFFF#32) :
    internalCount w = internalCount v := by
  have hfield : w.extractLsb' 4 12 = v.extractLsb' 4 12 := (extractLsb'_eq_iff_mask_eq 4 (by decide)).mpr h
  have hbits : ∀ i, i < 12 → w.getLsbD (4 + i) = v.getLsbD (4 + i) := by
    intro i hi
    have hbit := congrArg (·.getLsbD i) hfield
    simpa [hi] using hbit
  exact internalCount_congr (hbits 11 (by decide)) (extractLsb'_congr_bits fun i hi => hbits i (by omega))

/-- A zero magnitude has no negative: its negation is 0 (R132). -/
theorem internalCount_of_magField_eq_zero {v : Frame} (h : magField v = 0#11) : internalCount v = 0 := by
  simp [internalCount, h]

/-! ### The statements -/

/-- Settles O9: the gate is the fault code's, the value the probe count's, and both read only `v >> 18` and
`v & 0x7`. -/
theorem probeCelsiusIsGatedAndScaled : Obligations.ProbeCelsiusIsGatedAndScaled := by
  intro v
  obtain ⟨hlo, hhi⟩ := probeCount_range v
  refine ⟨?invalid, ?value, hlo, hhi, ?congr⟩
  case invalid =>
    intro hfault
    rw [probeCelsius_eq, if_neg (mt (faultCode_eq_zero_iff v).mp hfault)]
  case value =>
    intro hgood
    rw [probeCelsius_eq, if_pos ((faultCode_eq_zero_iff v).mpr hgood), probeCount_eq_sub, mul_one_div]
    push_cast
    rfl
  case congr =>
    intro w hprobe hcode
    have hfield : probeField w = probeField v := by rw [probeField_eq_setWidth, hprobe, probeField_eq_setWidth]
    rw [probeCelsius_eq, probeCelsius_eq, faultCode_eq_iff.mpr hcode, probeCount_congr hfield]

/-- Settles O10: each formulation is a lemma on the probe count. -/
theorem probeSignFormulationsAgree : Obligations.ProbeSignFormulationsAgree := by
  intro v
  refine ⟨probeCount_eq_sub v, probeCount_eq_toInt_div v, ?arithmetic, ?logical⟩
  case arithmetic => rw [toInt_sshiftRight_eq_div, probeCount_eq_toInt_div]
  case logical => rw [probeCount, probeField_eq_setWidth]

/-- Settles O12: the sign and the magnitude are those fields of `v >> 4`. -/
theorem internalCelsiusIsSignAndMagnitude : Obligations.InternalCelsiusIsSignAndMagnitude := by
  intro v
  obtain ⟨hlo, hhi⟩ := internalCount_range v
  refine ⟨?value, hlo, hhi, ?congr⟩
  case value =>
    rw [internalCelsius, internalCount, negField_eq_getLsbD, toNat_magField, mul_one_div]
    split
    · rw [Int.cast_neg, Int.cast_natCast, neg_div]
    · rw [Int.cast_natCast]
  case congr =>
    intro w hmask
    rw [internalCelsius, internalCount_congr_of_mask hmask, internalCelsius]

/-- Settles O7: the code is the field of three bits that the mask reads. -/
theorem faultCodeIsTheLowThreeBits : Obligations.FaultCodeIsTheLowThreeBits := by
  intro v
  have hlt : (faultCode v).toNat < 8 := (faultCode v).isLt
  refine ⟨?mask, toNat_faultCode v, by omega, fun w => faultCode_eq_iff.mpr⟩
  case mask =>
    rw [← BitVec.toNat_inj, BitVec.toNat_setWidth, ← toNat_faultCode_eq_toNat_and, Nat.mod_eq_of_lt hlt]

/-- Settles O8: each bit of the code is that bit of the frame, and three bits are a binary number. -/
theorem faultBitsHaveTheirMeanings : Obligations.FaultBitsHaveTheirMeanings := by
  intro v
  refine ⟨getLsbD_faultCode v (by decide), getLsbD_faultCode v (by decide), getLsbD_faultCode v (by decide),
    toNat_eq_sum_three_bits (faultCode v), ?faulted⟩
  case faulted => rw [faulted_eq_true_iff, BitVec.toNat_ne, BitVec.toNat_zero]

/-- Settles O13: both are made of the count without a gate. -/
theorem internalReadingIsNeverInvalid : Obligations.InternalReadingIsNeverInvalid :=
  fun v => ⟨⟨_, rfl⟩, Result.count_valid (internalCount v)⟩

/-- Settles O14: the count is 0 by either sign. -/
theorem negatedZeroIsZero : Obligations.NegatedZeroIsZero := by
  intro v hmag
  have hcount : internalCount v = 0 := internalCount_of_magField_eq_zero ((magField_eq_zero_iff v).mpr hmag)
  rw [internalCelsius, resultInternal, hcount, Int.cast_zero, zero_mul]
  exact ⟨rfl, rfl⟩

end Sys2Proof.Machine
end

section
/-!
The events of an acquisition (`40_transport.md` R99, R108): which frame is under way (R33), the events of the step at
each position, and that the positions passed from the first one are the listed sequence.
-/

namespace Sys2Proof.Machine

/-! ### The frame under way -/

theorem State.frameNow_congr {s t : State} (ho : t.oracle = s.oracle) (hl : t.life = s.life)
    (hf : t.frameNo = s.frameNo) : t.frameNow = s.frameNow := by
  rw [State.frameNow, State.frameAt_congr ho hl, hf, State.frameNow]

/-- The samples of the acquisition in progress are the bits of its frame (R51). -/
theorem State.getLsbD_frameNow (s : State) (i : Fin 32) : s.frameNow.getLsbD (31 - i.val) = s.sample i :=
  getLsbD_frameValue _ i

theorem sequencerStep_frameNo_of_first {s : State} {m : Mode} (h : s.seq = Pos.first m) :
    (sequencerStep s).frameNo = s.frameNo + 1 := by
  cases m with
  | manual => rw [sequencerStep_at_m1a h]
  | hardware => rw [sequencerStep_at_h2a h]

theorem openAcquisition_of_started {p : Pos} (h : p.started = true) (s : State) : openAcquisition p s = s := by
  cases p with
  | m1a => cases h
  | h2a => cases h
  | _ => rfl

theorem sequencerStep_frameNo_of_started {s : State} (h : s.seq.started = true) :
    (sequencerStep s).frameNo = s.frameNo := by
  rcases ho : s.seq.op with _ | o
  · rw [sequencerStep_of_no_op ho]
  · rw [sequencerStep_of_op ho, openAcquisition_of_started h]
    exact MicroOp.perform_frameNo o s

theorem sequencerStep_frameNow_of_started {s : State} (h : s.seq.started = true) :
    (sequencerStep s).frameNow = s.frameNow :=
  State.frameNow_congr (sequencerStep_oracle s) (sequencerStep_life s) (sequencerStep_frameNo_of_started h)

/-- The first step counts the acquisition, so the frame under way is then the next one (R33). -/
theorem sequencerStep_frameNow_of_first {s : State} {m : Mode} (h : s.seq = Pos.first m) :
    (sequencerStep s).frameNow = s.frameAt s.frameNo := by
  rw [State.frameNow, State.frameAt_congr (sequencerStep_oracle s) (sequencerStep_life s),
    sequencerStep_frameNo_of_first h, Nat.add_sub_cancel]

theorem Pos.ne_idle_of_started {p : Pos} (h : p.started = true) : p ≠ .idle := by
  rintro rfl
  cases h

theorem Pos.started_next {p : Pos} (hi : p ≠ .idle) (hd : p ≠ .dec) : p.next.started = true := by
  cases p with
  | idle => exact absurd rfl hi
  | dec => exact absurd rfl hd
  | m2e i => simp only [Pos.next]; split_ifs <;> rfl
  | h3f k j => simp only [Pos.next]; split_ifs <;> rfl
  | _ => rfl

/-- A step of the sequencer changes nothing, at `IDLE` or `DEC`, or goes to the successor. -/
theorem sequencerStep_eq_or_seq (s : State) :
    sequencerStep s = s ∨ s.seq ≠ .idle ∧ s.seq ≠ .dec ∧ (sequencerStep s).seq = s.seq.next := by
  by_cases hnone : s.seq.op = none
  · exact .inl (sequencerStep_of_no_op hnone)
  · obtain ⟨hi, hd⟩ : s.seq ≠ .idle ∧ s.seq ≠ .dec := by simpa [Pos.op_eq_none_iff] using hnone
    exact .inr ⟨hi, hd, sequencerStep_seq hi hd⟩

theorem sequencerStep_started {s : State} (hi : s.seq ≠ .idle) : (sequencerStep s).seq.started = true := by
  by_cases hd : s.seq = .dec
  · rw [sequencerStep_of_no_op (by rw [hd]; rfl), hd]
    rfl
  · rw [sequencerStep_seq hi hd]
    exact Pos.started_next hi hd

/-! ### Many steps of the sequencer -/

/-- What every step of the sequencer keeps, any number of them keeps. -/
theorem sequencerSteps_keeps {P : State → Prop} (hstep : ∀ s, P s → P (sequencerStep s)) (n : Nat) {s : State}
    (hs : P s) : P (sequencerSteps n s) := by
  induction n generalizing s with
  | zero => exact hs
  | succ n ih => exact ih (hstep s hs)

/-! ### The events -/

/-- The events that a micro-operation appends while the samples are the bits of `v`. -/
def MicroOp.events (v : Frame) : MicroOp → List Event
  | .drive l b => [.write l b]
  | .settle => [.delay]
  | .shiftSample i => [.sample (sampleOf v i)]
  | .riseSample i => [.write .sck true, .sample (sampleOf v i)]
  | .fall _ _ => [.write .sck false]

/-- The events of the step at a position. -/
def Pos.events (v : Frame) (p : Pos) : List Event :=
  p.op.elim [] (MicroOp.events v)

theorem MicroOp.perform_trace_eq (o : MicroOp) (s : State) : (o.perform s).trace = s.trace ++ o.events s.frameNow := by
  have hsample (i : Fin 32) : sampleOf s.frameNow i = s.sample i := s.getLsbD_frameNow i
  cases o <;> simp [MicroOp.perform, MicroOp.events, driveLine, settleDelay, hsample]

/-- A step of the sequencer appends the events of its position; the samples are those of the frame under way once the
step has counted it. -/
theorem sequencerStep_trace_eq (s : State) :
    (sequencerStep s).trace = s.trace ++ s.seq.events (sequencerStep s).frameNow := by
  rcases ho : s.seq.op with _ | o
  · simp [sequencerStep_of_no_op ho, Pos.events, ho]
  · have hframe : (sequencerStep s).frameNow = (openAcquisition s.seq s).frameNow :=
      State.frameNow_congr (by simp) (by simp) (by simp [sequencerStep_of_op ho])
    rw [hframe, Pos.events, ho]
    simp [sequencerStep_of_op ho, MicroOp.perform_trace_eq]

/-- As long as `DEC` is not passed, the events are those of the positions passed. -/
theorem sequencerSteps_trace_eq {n : Nat} {s : State} {v : Frame} (hv : (sequencerStep s).frameNow = v)
    (hn : n < s.seq.stepsLeft) :
    (sequencerSteps n s).trace = s.trace ++ (List.iterate Pos.next s.seq n).flatMap (Pos.events v) := by
  induction n generalizing s with
  | zero => simp [sequencerSteps]
  | succ n ih =>
    have hi : s.seq ≠ .idle := Pos.ne_idle_of_stepsLeft_pos (by omega)
    have hd : s.seq ≠ .dec := mt (Pos.stepsLeft_eq_one_iff _).mpr (by omega)
    have hseq := sequencerStep_seq hi hd
    have hleft := Pos.stepsLeft_next hi
    have hv' : (sequencerStep (sequencerStep s)).frameNow = v :=
      (sequencerStep_frameNow_of_started (sequencerStep_started hi)).trans hv
    have hih := ih hv' (by rw [hseq]; omega)
    rw [sequencerSteps, hih, sequencerStep_trace_eq, hv, hseq, List.iterate, List.flatMap_cons, List.append_assoc]

/-- The listed sequences (R99, R108) are the successors of the first position: a comparison of closed lists. -/
theorem sequenceOf_eq_iterate (m : Mode) :
    sequenceOf m = List.iterate Pos.next (Pos.first m) (operationSteps m - 1) := by
  cases m <;> decide +kernel

/-- The slots of the four bytes, in order, are the 32 samples. -/
theorem flatMap_map_sampleIndex :
    (List.finRange 4).flatMap (fun k => (List.finRange 8).map (sampleIndex k)) = List.finRange 32 := by
  decide

/-- The listed events of an acquisition (R99, R108) are those of its positions. -/
theorem flatMap_events_sequenceOf (m : Mode) (v : Frame) : (sequenceOf m).flatMap (Pos.events v) = eventsOf m v := by
  cases m with
  | manual => simp [sequenceOf, manualSequence, eventsOf, manualEvents, Pos.events, Pos.op, MicroOp.events,
      List.flatMap_assoc]
  | hardware =>
    simp [sequenceOf, hardwareSequence, eventsOf, hardwareEvents, Pos.events, Pos.op, MicroOp.events,
      ← flatMap_map_sampleIndex, List.flatMap_assoc, List.flatMap_map, List.flatMap_cons]

end Sys2Proof.Machine
end

section
/-!
The samples held (`40_transport.md` R94, R95, R100, R105): every step of the sequencer keeps `ACC`, or `RXB` and `BUF`,
in step with the samples taken. Each register changes at one kind of position; elsewhere the tables stand still.
-/

namespace Sys2Proof.Machine

/-! ### What each position leaves unchanged -/

theorem sequencerStep_acc_of_ne {s : State} (hfirst : s.seq ≠ .m1a) (hsample : ∀ i, s.seq ≠ .m2c i) :
    (sequencerStep s).acc = s.acc := by
  cases hp : s.seq with
  | m1a => exact absurd hp hfirst
  | m2c i => exact absurd hp (hsample i)
  | _ => simp [sequencerStep, hp, Pos.op, MicroOp.perform, openAcquisition, driveLine, settleDelay]

theorem sequencerStep_rxb_of_ne {s : State} (hsample : ∀ k j, s.seq ≠ .h3r k j) :
    (sequencerStep s).rxb = s.rxb := by
  cases hp : s.seq with
  | h3r k j => exact absurd hp (hsample k j)
  | _ => simp [sequencerStep, hp, Pos.op, MicroOp.perform, openAcquisition, driveLine, settleDelay]

theorem sequencerStep_buf_of_ne {s : State} (hfall : ∀ k j, s.seq ≠ .h3f k j) :
    (sequencerStep s).buf = s.buf := by
  cases hp : s.seq with
  | h3f k j => exact absurd hp (hfall k j)
  | _ => simp [sequencerStep, hp, Pos.op, MicroOp.perform, openAcquisition, driveLine, settleDelay]

theorem Pos.started_of_inMode_manual {p : Pos} (hmode : p.inMode .manual = true) (hi : p ≠ .idle) (hfirst : p ≠ .m1a) :
    p.started = true := by
  cases p with
  | idle => exact absurd rfl hi
  | m1a => exact absurd rfl hfirst
  | h2a => cases hmode
  | _ => rfl

/-- In `MANUAL` mode only `m2c i` takes a sample. -/
theorem Pos.taken_next_of_manual {p : Pos} (hmode : p.inMode .manual = true) (hi : p ≠ .idle) (hd : p ≠ .dec)
    (hsample : ∀ i, p ≠ .m2c i) : p.next.taken = p.taken := by
  cases p with
  | idle => exact absurd rfl hi
  | dec => exact absurd rfl hd
  | m2c i => exact absurd rfl (hsample i)
  | m2e i =>
    simp only [Pos.next]
    split_ifs <;> simp only [Pos.taken]
    omega
  | h2a | h2b | h3r | h3f | h4 => cases hmode
  | _ => rfl

/-- Where no sample is taken in `HARDWARE` mode, the bits that `RXB` holds afterwards it held before. -/
theorem Pos.lt_inByte_of_lt_next {p : Pos} {t : Nat} (hmode : p.inMode .hardware = true) (hi : p ≠ .idle)
    (hd : p ≠ .dec) (hsample : ∀ k j, p ≠ .h3r k j) (ht : t < p.next.inByte) :
    p.started = true ∧ t < p.inByte ∧ p.next.taken = p.taken := by
  cases p with
  | idle => exact absurd rfl hi
  | dec => exact absurd rfl hd
  | h2a => cases ht
  | h2b => cases ht
  | h3r k j => exact absurd rfl (hsample k j)
  | h3f k j =>
    simp only [Pos.next] at ht ⊢
    split_ifs at ht ⊢ <;> simp only [Pos.started, Pos.inByte, Pos.taken, true_and] at ht ⊢
    · omega
    · cases ht
    · omega
  | h4 => exact ⟨rfl, ht, rfl⟩
  | m1a | m1b | m1c | m1d | m2a | m2b | m2c | m2d | m2e | m3 => cases hmode

/-- Where no byte is placed in `HARDWARE` mode, the bytes that stand in `BUF` afterwards stood there before. -/
theorem Pos.lt_placed_of_lt_next {p : Pos} {n : Nat} (hmode : p.inMode .hardware = true) (hi : p ≠ .idle)
    (hd : p ≠ .dec) (hfall : ∀ k j, p ≠ .h3f k j) (hn : n < p.next.placed) :
    p.started = true ∧ n < p.placed := by
  cases p with
  | idle => exact absurd rfl hi
  | dec => exact absurd rfl hd
  | h2a => cases hn
  | h2b => cases hn
  | h3r k j => exact ⟨rfl, hn⟩
  | h3f k j => exact absurd rfl (hfall k j)
  | h4 => exact ⟨rfl, hn⟩
  | m1a | m1b | m1c | m1d | m2a | m2b | m2c | m2d | m2e | m3 => cases hmode

theorem Pos.placed_next_h3f (k : Fin 4) (j : Fin 8) :
    (Pos.h3f k j).next.placed = if j = 7 then k.val + 1 else k.val := by
  revert k j
  decide

/-! ### The registers -/

/-- Taking in the next sample, `ACC` keeps to the first bits of the frame (R94, R100). -/
theorem State.HoldsSamples.acc_sequencerStep {s : State} (h : s.HoldsSamples) (hm : s.mode = .manual)
    (hmode : s.seq.inMode .manual = true) (hi : s.seq ≠ .idle) (hd : s.seq ≠ .dec) :
    (sequencerStep s).acc = (sequencerStep s).frameNow >>> (32 - s.seq.next.taken) := by
  by_cases hfirst : s.seq = .m1a
  · rw [sequencerStep_at_m1a hfirst, hfirst]
    exact (BitVec.ushiftRight_eq_zero (le_refl 32)).symm
  have hstarted : s.seq.started = true := Pos.started_of_inMode_manual hmode hi hfirst
  have hacc := h.acc hm hstarted
  rw [sequencerStep_frameNow_of_started hstarted]
  by_cases hsample : ∃ i, s.seq = .m2c i
  · obtain ⟨i, hp⟩ := hsample
    have hbit := BitVec.shiftRight_sub_one_eq_shiftConcat s.frameNow (show 0 < 32 - i.val by omega)
    have hnow : 32 - i.val - 1 = 31 - i.val := by omega
    have hnext : 32 - (i.val + 1) = 31 - i.val := by omega
    rw [hnow, s.getLsbD_frameNow] at hbit
    rw [hp] at hacc
    rw [sequencerStep_at_m2c hp, hp]
    simp only [shiftLeft_one_or_ofBool, hacc, Pos.next, Pos.taken, hnext, hbit]
  · have hne : ∀ i, s.seq ≠ .m2c i := not_exists.mp hsample
    rw [sequencerStep_acc_of_ne hfirst hne, Pos.taken_next_of_manual hmode hi hd hne, hacc]

/-- `RXB` keeps to the bits of the byte under way (R95): a rise takes in the next one, and after the eighth slot a new
byte begins. -/
theorem State.HoldsSamples.rxb_sequencerStep {s : State} (h : s.HoldsSamples) (hm : s.mode = .hardware)
    (hmode : s.seq.inMode .hardware = true) (hi : s.seq ≠ .idle) (hd : s.seq ≠ .dec) (t : Nat)
    (ht : t < s.seq.next.inByte) :
    (sequencerStep s).rxb.getLsbD t = (sequencerStep s).frameNow.getLsbD (32 - s.seq.next.taken + t) := by
  have hrxb := h.rxb hm
  by_cases hsample : ∃ k j, s.seq = .h3r k j
  · obtain ⟨k, j, hp⟩ := hsample
    have hbit : s.frameNow.getLsbD (31 - (8 * k.val + j.val)) = s.sample (sampleIndex k j) :=
      s.getLsbD_frameNow (sampleIndex k j)
    rw [sequencerStep_frameNow_of_started (by rw [hp]; rfl), sequencerStep_at_h3r hp]
    rw [hp] at hrxb ht ⊢
    simp only [Pos.next, Pos.inByte, Pos.taken] at hrxb ht ⊢
    rw [shiftLeft_one_or_ofBool, BitVec.getLsbD_shiftConcat, decide_eq_true (show t < 8 by omega), Bool.true_and]
    cases t with
    | zero =>
      rw [if_pos rfl, ← hbit]
      congr 1
      omega
    | succ t =>
      rw [if_neg t.succ_ne_zero, Nat.add_sub_cancel, hrxb rfl t (by omega)]
      congr 1
      omega
  · have hne : ∀ k j, s.seq ≠ .h3r k j := by simpa using hsample
    obtain ⟨hstarted, hlt, htaken⟩ := Pos.lt_inByte_of_lt_next hmode hi hd hne ht
    rw [sequencerStep_frameNow_of_started hstarted, sequencerStep_rxb_of_ne hne, htaken, hrxb hstarted t hlt]

/-- After the eighth fall of a byte, `RXB` is that byte of the frame. -/
theorem State.HoldsSamples.rxb_eq_byte {s : State} (h : s.HoldsSamples) (hm : s.mode = .hardware) {k : Fin 4}
    (hp : s.seq = .h3f k 7) : s.rxb = s.frameNow.extractLsb' (24 - 8 * k.val) 8 := by
  have hrxb := h.rxb hm
  rw [hp] at hrxb
  apply BitVec.eq_of_getLsbD_eq
  intro t ht
  have hbit := hrxb rfl t ht
  rw [hbit, BitVec.getLsbD_extractLsb', decide_eq_true ht, Bool.true_and]
  congr 1
  simp only [Pos.taken]
  omega

/-- The complete bytes stay in their places in `BUF`, and the eighth fall of a byte places it (R105). -/
theorem State.HoldsSamples.buf_sequencerStep {s : State} (h : s.HoldsSamples) (hm : s.mode = .hardware)
    (hmode : s.seq.inMode .hardware = true) (hi : s.seq ≠ .idle) (hd : s.seq ≠ .dec) (n : Fin 4)
    (hn : n.val < s.seq.next.placed) :
    (sequencerStep s).buf[3 - n.val] = (sequencerStep s).frameNow.extractLsb' (24 - 8 * n.val) 8 := by
  have hbuf := h.buf hm
  by_cases hfall : ∃ k j, s.seq = .h3f k j
  · obtain ⟨k, j, hp⟩ := hfall
    have hstarted : s.seq.started = true := by rw [hp]; rfl
    have hheld : n.val < k.val → s.buf[3 - n.val] = s.frameNow.extractLsb' (24 - 8 * n.val) 8 :=
      fun hlt => hbuf hstarted n (by rw [hp]; exact hlt)
    rw [sequencerStep_frameNow_of_started hstarted]
    rw [hp, Pos.placed_next_h3f] at hn
    simp only [sequencerStep_at_h3f hp]
    by_cases hj : j = 7
    · subst hj
      rw [if_pos rfl] at hn
      by_cases hnk : n = k
      · subst hnk
        simp [h.rxb_eq_byte hm hp]
      · have hne : n.val ≠ k.val := Fin.val_ne_of_ne hnk
        simp only [if_pos]
        rw [Vector.getElem_set_ne _ _ (by omega)]
        exact hheld (by omega)
    · rw [if_neg hj] at hn
      simpa only [if_neg hj] using hheld hn
  · have hne : ∀ k j, s.seq ≠ .h3f k j := by simpa using hfall
    obtain ⟨hstarted, hlt⟩ := Pos.lt_placed_of_lt_next hmode hi hd hne hn
    rw [sequencerStep_frameNow_of_started hstarted]
    simpa only [sequencerStep_buf_of_ne hne] using hbuf hstarted n hlt

/-! ### The step -/

/-- A step of the sequencer keeps the samples held, at a position of its own strategy. -/
theorem sequencerStep_holdsSamples {s : State} (hmode : s.seq.inMode s.mode = true) (h : s.HoldsSamples) :
    (sequencerStep s).HoldsSamples := by
  obtain hsame | ⟨hi, hd, hseq⟩ := sequencerStep_eq_or_seq s
  · rwa [hsame]
  refine ⟨fun hm _ => ?acc, fun hm _ t ht => ?rxb, fun hm _ k hk => ?buf⟩
  all_goals
    rw [sequencerStep_mode] at hm
    rw [hm] at hmode
  case acc =>
    rw [hseq]
    exact h.acc_sequencerStep hm hmode hi hd
  case rxb =>
    rw [hseq] at ht ⊢
    exact h.rxb_sequencerStep hm hmode hi hd t ht
  case buf =>
    rw [hseq] at hk
    exact h.buf_sequencerStep hm hmode hi hd k hk

theorem sequencerStep_inMode {s : State} (hmode : s.seq.inMode s.mode = true) :
    (sequencerStep s).seq.inMode (sequencerStep s).mode = true := by
  obtain hsame | ⟨-, -, hseq⟩ := sequencerStep_eq_or_seq s
  · rwa [hsame]
  · rw [sequencerStep_mode, hseq]
    exact Pos.inMode_next hmode

end Sys2Proof.Machine
end

section
/-!
The read commands (`42_commands.md` R140 to R145): a whole acquisition ends at `DEC` with its own frame, so a command
presented at rest delivers the result of that frame; and the constructions (R146, R147).
-/

namespace Sys2Proof.Machine

/-! ### A whole acquisition -/

/-- The state at `DEC`, for a block that stands where an acquisition begins. -/
def acquisition (s : State) : State :=
  sequencerSteps (operationSteps s.mode - 1) s

section Acquisition

variable {s : State}

theorem stepsLeft_of_first (hfirst : s.seq = Pos.first s.mode) : s.seq.stepsLeft = operationSteps s.mode - 1 + 1 := by
  rw [hfirst]
  cases s.mode <;> rfl

theorem acquisition_seq (hfirst : s.seq = Pos.first s.mode) : (acquisition s).seq = .dec := by
  have hleft := stepsLeft_of_first hfirst
  have hcount := sequencerSteps_stepsLeft (n := operationSteps s.mode - 1) (s := s) (by omega)
  rw [← Pos.stepsLeft_eq_one_iff, acquisition]
  omega

theorem acquisition_trace (hfirst : s.seq = Pos.first s.mode) :
    (acquisition s).trace = s.trace ++ eventsOf s.mode (s.frameAt s.frameNo) := by
  have hleft := stepsLeft_of_first hfirst
  rw [acquisition, sequencerSteps_trace_eq (sequencerStep_frameNow_of_first hfirst) (by omega), hfirst,
    ← sequenceOf_eq_iterate, flatMap_events_sequenceOf]

theorem acquisition_opr (s : State) : (acquisition s).opr = s.opr :=
  sequencerSteps_keeps (P := fun t => t.opr = s.opr) (fun t ht => (sequencerStep_opr t).trans ht) _ rfl

theorem acquisition_busy (s : State) : (acquisition s).busy = s.busy :=
  sequencerSteps_keeps (P := fun t => t.busy = s.busy) (fun t ht => (sequencerStep_busy t).trans ht) _ rfl

theorem acquisition_frameNow (hfirst : s.seq = Pos.first s.mode) :
    (acquisition s).frameNow = s.frameAt s.frameNo := by
  obtain ⟨n, hn⟩ : ∃ n, operationSteps s.mode - 1 = n + 1 := by cases s.mode <;> exact ⟨_, rfl⟩
  have hstarted : (sequencerStep s).seq.started = true :=
    sequencerStep_started (by rw [hfirst]; cases s.mode <;> nofun)
  rw [acquisition, hn, sequencerSteps]
  exact (sequencerSteps_keeps (P := fun t => t.seq.started = true ∧ t.frameNow = s.frameAt s.frameNo)
    (fun t ⟨hst, hframe⟩ => ⟨sequencerStep_started (Pos.ne_idle_of_started hst),
      (sequencerStep_frameNow_of_started hst).trans hframe⟩)
    n ⟨hstarted, sequencerStep_frameNow_of_first hfirst⟩).2

/-- Before its first step an acquisition holds nothing yet. -/
theorem holdsSamples_of_not_started (h : s.seq.started = false) : s.HoldsSamples := by
  constructor <;> simp [h]

theorem acquisition_holdsSamples (hfirst : s.seq = Pos.first s.mode) : (acquisition s).HoldsSamples := by
  have hmode : s.seq.inMode s.mode = true := by rw [hfirst]; cases s.mode <;> rfl
  have hheld : s.HoldsSamples := holdsSamples_of_not_started (by rw [hfirst]; cases s.mode <;> rfl)
  exact (sequencerSteps_keeps (P := fun t => t.seq.inMode t.mode = true ∧ t.HoldsSamples)
    (fun t ⟨hm, hh⟩ => ⟨sequencerStep_inMode hm, sequencerStep_holdsSamples hm hh⟩) _ ⟨hmode, hheld⟩).2

theorem acquisition_acquired (hfirst : s.seq = Pos.first s.mode) :
    (acquisition s).acquired = s.frameAt s.frameNo := by
  rw [(acquisition_holdsSamples hfirst).acquired_eq_frameNow (acquisition_seq hfirst), acquisition_frameNow hfirst]

/-- With a quiet host, a running command makes its whole acquisition. -/
theorem run_acquisition (hb : s.busy = true) (hfirst : s.seq = Pos.first s.mode)
    (hq : quietFor (operationSteps s.mode - 1) s.host) :
    run (operationSteps s.mode - 1) s =
      .next { acquisition s with host := s.host.drop (operationSteps s.mode - 1) } := by
  have hleft := stepsLeft_of_first hfirst
  refine run_sequencing hb hq fun k hk => ?_
  have hcount := sequencerSteps_stepsLeft (n := k) (s := s) (by omega)
  rw [ne_eq, ← Pos.stepsLeft_eq_one_iff]
  omega

/-- With the step at `DEC` the operation is whole: the result is that of its own frame (R141). -/
theorem run_from_first (hb : s.busy = true) (hfirst : s.seq = Pos.first s.mode)
    (hq : quietFor (operationSteps s.mode) s.host) :
    run (operationSteps s.mode) s =
      .next (deliver (resultFor s.opr (s.frameAt s.frameNo))
        { acquisition s with host := s.host.drop (operationSteps s.mode) }) := by
  obtain ⟨n, hn⟩ : ∃ n, operationSteps s.mode = n + 1 := by cases s.mode <;> exact ⟨_, rfl⟩
  have hacq := run_acquisition hb hfirst (quietFor_of_le (Nat.sub_le _ 1) hq)
  rw [hn] at hq
  rw [hn, Nat.add_sub_cancel] at hacq
  have hstep : step { acquisition s with host := s.host.drop n } =
      .next (deliver (resultFor (acquisition s).opr (acquisition s).acquired)
        { acquisition s with host := (s.host.drop n).tail }) :=
    step_delivering ((acquisition_busy s).trans hb) (acquisition_seq hfirst) (quietFor_head (quietFor_drop hq))
  rw [hn, run_add_of_run hacq, run_succ_of_step hstep, acquisition_opr, acquisition_acquired hfirst, List.tail_drop]
  rfl

end Acquisition

/-! ### A whole operation -/

/-- A command presented at rest to a host quiet from then on: acceptance, the acquisition of its own frame, and at `DEC`
the result (R140, R141). -/
theorem run_operation {s : State} {c : CmdCode} {rest : List HostMove} (hb : s.busy = false)
    (hh : s.host = .request (.command c) :: rest) (hq : quietFor (operationSteps s.mode) rest) :
    run (operationSteps s.mode + 1) s =
      .next (deliver (resultFor c (s.frameAt s.frameNo))
        { acquisition (accept c { s with host := rest }) with host := rest.drop (operationSteps s.mode) }) := by
  rw [run_succ_of_step (step_accepting hb hh)]
  exact run_from_first (s := accept c { s with host := rest }) rfl rfl hq

/-- The event of the result that the command with code `c` makes of the frame `v` (R141). -/
def resultEvent (c : CmdCode) (v : Frame) : Event :=
  .result c (resultFor c v).valid (resultFor c v).data

/-- The operation of the read command `i` with code `c`, as R142 to R145 describe each of the four: it is accepted at
rest, at `DEC` it delivers the event `outcome v` of the acquired frame `v`, and from rest its whole run appends one
acquisition of its own frame `v` and `outcome v`. -/
def ReadOperation (i : Instr) (c : CmdCode) (outcome : Frame → Event) : Prop :=
  ∀ s : State,
    (s.busy = false → exec i s = .next { s with opr := c, busy := true, seq := Pos.first s.mode }) ∧
    (∀ v : Frame, s.busy = true → s.opr = c → s.seq = .dec → v = s.acquired →
      exec i s = .next { s with busy := false, seq := .idle, trace := s.trace ++ [outcome v] }) ∧
    (∀ (v : Frame) (rest : List HostMove), s.busy = false → s.host = .request (.command c) :: rest →
      quietFor (operationSteps s.mode) rest → v = s.frameAt s.frameNo →
      ∃ t, run (operationSteps s.mode + 1) s = .next t ∧ t.busy = false ∧ t.seq = .idle ∧
        t.trace = s.trace ++ eventsOf s.mode v ++ [outcome v])

/-- Every command runs so, and its outcome is the result that it makes of the frame. -/
theorem readOperation_resultEvent (c : CmdCode) : ReadOperation (decodeCommand c) c (resultEvent c) := by
  intro s
  rw [exec_decodeCommand]
  refine ⟨fun hb => readCommand_at_rest hb, ?delivery, ?operation⟩
  case delivery =>
    rintro v hb rfl hdec rfl
    exact readCommand_at_dec hb rfl hdec
  case operation =>
    rintro v rest hb hh hq rfl
    have htrace := acquisition_trace (s := accept c { s with host := rest }) rfl
    have hopr := acquisition_opr (accept c { s with host := rest })
    refine ⟨_, run_operation hb hh hq, rfl, rfl, ?_⟩
    rw [deliver_trace, hopr, htrace]
    rfl

theorem ReadOperation.congr {i : Instr} {c : CmdCode} {f g : Frame → Event} (h : ReadOperation i c f)
    (hfg : ∀ v, f v = g v) : ReadOperation i c g :=
  funext hfg ▸ h

/-! ### The results, from the bits of the frame -/

theorem internalCount_eq_of_shift (v : Frame) :
    internalCount v = if (v >>> 4).getLsbD 11 then -(((v >>> 4) &&& 0x7FF#32).toNat : ℤ)
      else (((v >>> 4) &&& 0x7FF#32).toNat : ℤ) := by
  rw [internalCount, negField_eq_getLsbD, toNat_magField]

theorem resultEvent_readInternal (v : Frame) :
    resultEvent 0b00#2 v = .result 0b00#2 true (BitVec.ofInt 18
      (if (v >>> 4).getLsbD 11 then -(((v >>> 4) &&& 0x7FF#32).toNat : ℤ)
        else (((v >>> 4) &&& 0x7FF#32).toNat : ℤ))) := by
  rw [← internalCount_eq_of_shift]
  rfl

theorem resultEvent_readCelsius (v : Frame) :
    resultEvent 0b01#2 v = if v &&& 0x7#32 = 0#32 then .result 0b01#2 true (BitVec.ofInt 18 (v.toInt / 2 ^ 18))
      else .result 0b01#2 false 0#18 := by
  have hresult : resultFor 0b01#2 v = resultCelsius v := rfl
  simp only [resultEvent, hresult, resultCelsius_eq, probeCount_eq_toInt_div, faultCode_eq_zero_iff]
  split <;> rfl

theorem resultEvent_readFahrenheit (v : Frame) :
    resultEvent 0b10#2 v =
      if v &&& 0x7#32 = 0#32 then .result 0b10#2 true (BitVec.ofInt 18 (9 * (v.toInt / 2 ^ 18) + 640))
      else .result 0b10#2 false 0#18 := by
  have hresult : resultFor 0b10#2 v = resultFahrenheit v := rfl
  simp only [resultEvent, hresult, resultFahrenheit_eq, fahrenheitCount, probeCount_eq_toInt_div, faultCode_eq_zero_iff]
  split <;> rfl

theorem resultEvent_readError (v : Frame) :
    resultEvent 0b11#2 v = .result 0b11#2 true (BitVec.ofNat 18 (v.toNat % 8)) := by
  rw [← toNat_faultCode, BitVec.ofNat_toNat]
  rfl

/-! ### The statements -/

/-- Settles O33: code 00 is `READ_INTERNAL`, and its result is the sign and magnitude of `v >> 4` (R142). -/
theorem readInternalOperation : Obligations.ReadInternalOperation :=
  (readOperation_resultEvent 0b00#2).congr resultEvent_readInternal

/-- Settles O34: code 01 is `READ_CELSIUS`, and its result is the probe count, gated by the fault code (R143). -/
theorem readCelsiusOperation : Obligations.ReadCelsiusOperation :=
  (readOperation_resultEvent 0b01#2).congr resultEvent_readCelsius

/-- Settles O35: code 10 is `READ_FAHRENHEIT`, and its result is the Fahrenheit count, gated likewise (R144). -/
theorem readFahrenheitOperation : Obligations.ReadFahrenheitOperation :=
  (readOperation_resultEvent 0b10#2).congr resultEvent_readFahrenheit

/-- Settles O36: code 11 is `READ_ERROR`, and its result is the fault code itself (R145). -/
theorem readErrorOperation : Obligations.ReadErrorOperation :=
  (readOperation_resultEvent 0b11#2).congr resultEvent_readError

/-- Settles O42: the answer is the construction, whose fields are the reset values (R37) but for the identifiers. -/
theorem constructManualLeavesResetValues : Obligations.ConstructManualLeavesResetValues := by
  intro clk cs miso s
  exact ⟨construct .manual clk cs miso s, rfl, by simp⟩

/-- Settles O43: the answer is the construction, whose fields are the reset values (R37) but for chip-select and the
bus. -/
theorem constructHwLeavesResetValues : Obligations.ConstructHwLeavesResetValues := by
  intro cs s
  exact ⟨construct .hardware cs cs cs s, rfl, by simp⟩

end Sys2Proof.Machine
end

section
/-!
The one error condition (`60_exceptions.md` R161): a frame with a fault bit set makes both probe reads the sentinel,
whatever the rest of the frame, and every other result is valid.
-/

namespace Sys2Proof.Machine

/-- A gated result is invalid exactly when its gate is closed. -/
theorem gatedCount_valid_eq_false_iff (gate : Prop) [Decidable gate] (n : ℤ) :
    (if gate then Result.count n else Result.sentinel).valid = false ↔ ¬ gate := by
  by_cases hgate : gate
  · simp [hgate]
  · simp [hgate]

theorem resultCelsius_valid_eq_false_iff (v : Frame) : (resultCelsius v).valid = false ↔ v &&& 0x7#32 ≠ 0#32 := by
  rw [resultCelsius_eq, gatedCount_valid_eq_false_iff, faultCode_eq_zero_iff]

theorem resultFahrenheit_valid_eq_false_iff (v : Frame) :
    (resultFahrenheit v).valid = false ↔ v &&& 0x7#32 ≠ 0#32 := by
  rw [resultFahrenheit_eq, gatedCount_valid_eq_false_iff, faultCode_eq_zero_iff]

theorem resultCelsius_of_fault {v : Frame} (hfault : v &&& 0x7#32 ≠ 0#32) : resultCelsius v = Result.sentinel := by
  rw [resultCelsius_eq, if_neg (mt (faultCode_eq_zero_iff v).mp hfault)]

theorem resultFahrenheit_of_fault {v : Frame} (hfault : v &&& 0x7#32 ≠ 0#32) :
    resultFahrenheit v = Result.sentinel := by
  rw [resultFahrenheit_eq, if_neg (mt (faultCode_eq_zero_iff v).mp hfault)]

/-- Settles O18: a probe read is a count without a fault bit and the sentinel with one, and the sentinel is one result,
so two faulted frames cannot be told apart by it. -/
theorem onlyProbeReadsAreGated : Obligations.OnlyProbeReadsAreGated := by
  intro v
  refine ⟨(resultCelsius_valid_eq_false_iff v).symm, (resultFahrenheit_valid_eq_false_iff v).symm,
    Result.count_valid (internalCount v), rfl, ?same⟩
  case same =>
    intro w hv hw
    exact ⟨(resultCelsius_of_fault hw).trans (resultCelsius_of_fault hv).symm,
      (resultFahrenheit_of_fault hw).trans (resultFahrenheit_of_fault hv).symm⟩

end Sys2Proof.Machine
end

section
/-!
Reset during an operation (`70_reset_and_hazards.md` R182): a release of reset constructs whatever the block was doing,
so what was running leaves no trace.
-/

namespace Sys2Proof.Machine

/-- With a strap that decodes as the host's move, a step is the construction in the mode of the strap (R74, R180),
busy or not. -/
theorem step_releasing {s : State} {l : Strap} {ids : List LineId} {rest : List HostMove} {i : Instr}
    (hh : s.host = .request (.strap l ids) :: rest) (hi : decode (.strap l ids) = .ok i) :
    ∃ clk cs miso,
      step s = .next (construct (if l = 0#1 then .manual else .hardware) clk cs miso { s with host := rest }) := by
  have hfetch : fetch s = present (.strap l ids) { s with host := rest } := by simp [fetch, hh]
  obtain ⟨clk, cs, miso, rfl, -, rfl⟩ | ⟨cs, rfl, -, rfl⟩ := decodeStrap_cases hi
  case inl =>
    refine ⟨clk, cs, miso, ?_⟩
    simp [step, hfetch, present, hi, Instr.isCommand, exec, execConstructManual]
  case inr =>
    refine ⟨cs, cs, cs, ?_⟩
    simp [step, hfetch, present, hi, Instr.isCommand, exec, execConstructHw]

/-- Settles O44: the step is a construction (R182), which empties the trace and sets the reset values in either mode;
that the block was busy is not used. -/
theorem resetAbandonsTheOperation : Obligations.ResetAbandonsTheOperation := by
  intro s l ids rest i _ hh hi
  obtain ⟨clk, cs, miso, hstep⟩ := step_releasing hh hi
  exact ⟨_, hstep, by simp⟩

end Sys2Proof.Machine
end

section
/-!
Control, lines and accounts (`10_state.md` sections 3 and 5, `20_memory.md` section 3): what the step at a position does
to the levels of `CS` and `SCK`, to `FRAME_NO` and to the counts of the trace, and with it the invariants that every
step of the machine keeps.
-/

namespace Sys2Proof.Machine

/-! ### The lines -/

/-- The level of `CS` after a micro-operation, from the level before it (R25). -/
def MicroOp.csAfter : MicroOp → Level → Level
  | .drive .cs b, _ => b
  | _, b => b

/-- The level of `SCK` after a micro-operation, from the level before it (R26, R95, R105). -/
def MicroOp.sckAfter : MicroOp → Level → Level
  | .drive .sck b, _ => b
  | .riseSample _, _ => true
  | .fall _ _, _ => false
  | _, b => b

theorem MicroOp.perform_cs (o : MicroOp) (s : State) : (o.perform s).cs = o.csAfter s.cs := by
  cases o with
  | drive l b => cases l <;> rfl
  | fall k j => exact fall_cs k j s
  | _ => rfl

theorem MicroOp.perform_sck (o : MicroOp) (s : State) : (o.perform s).sck = o.sckAfter s.sck := by
  cases o with
  | drive l b => cases l <;> rfl
  | fall k j => exact fall_sck k j s
  | _ => rfl

theorem sequencerStep_cs_of_op {s : State} {o : MicroOp} (ho : s.seq.op = some o) :
    (sequencerStep s).cs = o.csAfter s.cs := by
  simp [sequencerStep_of_op ho, MicroOp.perform_cs]

theorem sequencerStep_sck_of_op {s : State} {o : MicroOp} (ho : s.seq.op = some o) :
    (sequencerStep s).sck = o.sckAfter s.sck := by
  simp [sequencerStep_of_op ho, MicroOp.perform_sck]

theorem Pos.ne_dec_of_op {p : Pos} {o : MicroOp} (ho : p.op = some o) : p ≠ .dec := by
  rintro rfl
  cases ho

/-- The table of levels follows the micro-operations: `CS`. -/
theorem Pos.csLevel_next {p : Pos} {o : MicroOp} (ho : p.op = some o) : p.next.csLevel = o.csAfter p.csLevel := by
  cases p with
  | idle | dec => cases ho
  | m2e i =>
    cases ho
    simp only [Pos.next]
    split_ifs <;> rfl
  | h3f k j =>
    cases ho
    simp only [Pos.next]
    split_ifs <;> rfl
  | _ =>
    cases ho
    rfl

/-- The table of levels follows the micro-operations: `SCK`. Whether an acquisition was made before tells only at rest
and before the first step, which a micro-operation leaves behind. -/
theorem Pos.sckLevel_next {p : Pos} {o : MicroOp} {m : Mode} (ho : p.op = some o) (hmode : p.inMode m = true)
    (used used' : Bool) : p.next.sckLevel m used' = o.sckAfter (p.sckLevel m used) := by
  cases p with
  | idle | dec => cases ho
  | m2e i =>
    cases ho
    simp only [Pos.next]
    split_ifs
    · simp [Pos.sckLevel, MicroOp.sckAfter]
    · rfl
  | h3f k j =>
    cases ho
    simp only [Pos.next]
    split_ifs <;> rfl
  | m3 =>
    cases ho
    obtain rfl : m = .manual := by simpa [Pos.inMode] using hmode
    rfl
  | h4 =>
    cases ho
    obtain rfl : m = .hardware := by simpa [Pos.inMode] using hmode
    rfl
  | _ =>
    cases ho
    rfl

/-! ### The acquisitions counted -/

/-- A position of the mode whose acquisition has not begun is rest or the first one. -/
theorem Pos.eq_first_of_not_started {p : Pos} {m : Mode} (hmode : p.inMode m = true) (hi : p ≠ .idle)
    (hst : p.started = false) : p = Pos.first m := by
  cases p with
  | idle => exact absurd rfl hi
  | m1a =>
    obtain rfl : m = .manual := by simpa [Pos.inMode] using hmode
    rfl
  | h2a =>
    obtain rfl : m = .hardware := by simpa [Pos.inMode] using hmode
    rfl
  | _ => cases hst

/-- After a step of a running command its acquisition is counted, by that step or by an earlier one (R33). -/
theorem sequencerStep_frameNo_add_started {s : State} (hmode : s.seq.inMode s.mode = true) (hi : s.seq ≠ .idle) :
    (sequencerStep s).frameNo + s.seq.started.toNat = s.frameNo + 1 := by
  rcases hst : s.seq.started with _ | _
  · rw [sequencerStep_frameNo_of_first (Pos.eq_first_of_not_started hmode hi hst)]
    rfl
  · rw [sequencerStep_frameNo_of_started hst]
    rfl

/-! ### The events counted -/

/-- How many samples a micro-operation takes. -/
def MicroOp.samples : MicroOp → Nat
  | .shiftSample _ | .riseSample _ => 1
  | .drive _ _ | .settle | .fall _ _ => 0

theorem MicroOp.countP_isSample_events (v : Frame) (o : MicroOp) : (o.events v).countP Event.isSample = o.samples := by
  cases o <;> rfl

theorem MicroOp.countP_isResult_events (v : Frame) (o : MicroOp) : (o.events v).countP Event.isResult = 0 := by
  cases o <;> rfl

theorem countP_isSample_sequencerStep {s : State} {o : MicroOp} (ho : s.seq.op = some o) :
    (sequencerStep s).trace.countP Event.isSample = s.trace.countP Event.isSample + o.samples := by
  rw [sequencerStep_trace_eq, List.countP_append, Pos.events, ho, Option.elim_some, MicroOp.countP_isSample_events]

theorem countP_isResult_sequencerStep (s : State) :
    (sequencerStep s).trace.countP Event.isResult = s.trace.countP Event.isResult := by
  rw [sequencerStep_trace_eq, List.countP_append, Pos.events]
  rcases s.seq.op with _ | o
  · rfl
  · rw [Option.elim_some, MicroOp.countP_isResult_events, Nat.add_zero]

/-- The table of samples taken follows the micro-operations. -/
theorem Pos.taken_next {p : Pos} {o : MicroOp} (ho : p.op = some o) : p.next.taken = p.taken + o.samples := by
  cases p with
  | idle | dec => cases ho
  | m2e i =>
    cases ho
    simp only [Pos.next]
    split_ifs
    · rfl
    · simp only [Pos.taken, MicroOp.samples]
      omega
  | h3f k j =>
    cases ho
    simp only [Pos.next]
    split_ifs <;> simp only [Pos.taken, MicroOp.samples, Fin.val_zero] <;> omega
  | _ =>
    cases ho
    rfl

/-! ### What every step keeps -/

/-- What holds after each of the things a step can do holds after the step. -/
theorem step_keeps {P : State → Prop} {s t : State} (h : step s = .next t) (wait : P s.tick)
    (accepts : s.busy = false → ∀ c, P (accept c s.tick))
    (sequences : s.busy = true → P (sequencerStep s.tick))
    (delivers : s.busy = true → s.seq = .dec → ∀ r, P (deliver r s.tick))
    (constructs : ∀ m clk cs miso, P (construct m clk cs miso s.tick)) : P t := by
  obtain ⟨-, rfl⟩ | ⟨c, -, hb, -, rfl⟩ | ⟨hb, -, rfl⟩ | ⟨hb, hd, rfl⟩ | ⟨-, -, -, m, clk, cs, miso, -, rfl⟩ :=
    step_cases h
  · exact wait
  · exact accepts hb c
  · exact sequences hb
  · exact delivers hb hd _
  · exact constructs m clk cs miso

theorem State.Controlled.seq_ne_idle {s : State} (h : s.Controlled) (hb : s.busy = true) : s.seq ≠ .idle := by
  simpa [hb] using h.busy

theorem State.Controlled.seq_eq_idle {s : State} (h : s.Controlled) (hb : s.busy = false) : s.seq = .idle := by
  simpa [hb] using h.busy

/-! Where a command begins, before its first step, the block stands as at rest. -/

@[simp] theorem Pos.inMode_first (m : Mode) : (Pos.first m).inMode m = true := by
  cases m <;> rfl

@[simp] theorem Pos.first_ne_idle (m : Mode) : Pos.first m ≠ .idle := by
  cases m <;> nofun

@[simp] theorem Pos.csLevel_first (m : Mode) : (Pos.first m).csLevel = Pos.idle.csLevel := by
  cases m <;> rfl

@[simp] theorem Pos.sckLevel_first (m : Mode) (used : Bool) :
    (Pos.first m).sckLevel m used = Pos.idle.sckLevel m used := by
  cases m <;> rfl

@[simp] theorem Pos.started_first (m : Mode) : (Pos.first m).started = false := by
  cases m <;> rfl

@[simp] theorem Pos.taken_first (m : Mode) : (Pos.first m).taken = 0 := by
  cases m <;> rfl

theorem State.Controlled.tick {s : State} (h : s.Controlled) : s.tick.Controlled :=
  ⟨h.busy, h.inMode, h.cs, h.sck, h.counted⟩

theorem State.Controlled.accept {s : State} (h : s.Controlled) (hb : s.busy = false) (c : CmdCode) :
    (accept c s).Controlled := by
  have hidle := h.seq_eq_idle hb
  constructor
  case busy => simp
  case inMode => simp
  case cs => rw [accept_cs, h.cs, hidle, accept_seq, Pos.csLevel_first]
  case sck => rw [accept_sck, h.sck, hidle, accept_seq, accept_mode, Pos.sckLevel_first, accept_frameNo]
  case counted => simp

theorem State.Controlled.sequencerStep {s : State} (h : s.Controlled) (hb : s.busy = true) :
    (sequencerStep s).Controlled := by
  have hi := h.seq_ne_idle hb
  rcases ho : s.seq.op with _ | o
  · rwa [sequencerStep_of_no_op ho]
  have hd : s.seq ≠ .dec := Pos.ne_dec_of_op ho
  have hseq := sequencerStep_seq hi hd
  constructor
  case busy => simp [hseq, hb, Pos.next_ne_idle hi hd]
  case inMode => exact sequencerStep_inMode h.inMode
  case cs => rw [sequencerStep_cs_of_op ho, h.cs, hseq, Pos.csLevel_next ho]
  case sck =>
    rw [sequencerStep_sck_of_op ho, h.sck, hseq, sequencerStep_mode]
    exact (Pos.sckLevel_next ho h.inMode _ _).symm
  case counted =>
    intro _
    have hcount := sequencerStep_frameNo_add_started h.inMode hi
    rcases hst : s.seq.started with _ | _
    · rw [hst, Bool.toNat_false] at hcount
      omega
    · rw [sequencerStep_frameNo_of_started hst]
      exact h.counted hst

/-- Once an acquisition has been made, the clock stands at rest where it stood at `DEC` (R26). -/
theorem Pos.sckLevel_idle_used (m : Mode) (used : Bool) : Pos.idle.sckLevel m true = Pos.dec.sckLevel m used := by
  cases m <;> rfl

/-- The operation that ends has counted its acquisition, so the manual clock stands high from then on. -/
theorem State.Controlled.deliver {s : State} (h : s.Controlled) (hd : s.seq = .dec) (r : Result) :
    (deliver r s).Controlled := by
  obtain ⟨-, -, hcs, hsck, hcounted⟩ := h
  rw [hd] at hcs hsck hcounted
  have hused : s.frameNo ≠ 0 := Nat.pos_iff_ne_zero.mp (hcounted rfl)
  constructor
  case busy => simp
  case inMode => rfl
  case cs => rw [deliver_cs, hcs]; rfl
  case sck => rw [deliver_sck, hsck, deliver_mode, deliver_frameNo, deliver_seq, decide_eq_true hused,
      Pos.sckLevel_idle_used]
  case counted => nofun

theorem construct_controlled (m : Mode) (clk cs miso : LineId) (s : State) :
    (construct m clk cs miso s).Controlled := by
  constructor <;> simp [Pos.inMode, Pos.csLevel, Pos.sckLevel, Pos.started]

/-- Settles O50: each of the things a step can do keeps control and lines. -/
theorem stepKeepsControlAndLines : Obligations.StepKeepsControlAndLines := by
  intro s t hctl h
  exact step_keeps h hctl.tick hctl.tick.accept hctl.tick.sequencerStep (fun _ => hctl.tick.deliver)
    fun m clk cs miso => construct_controlled m clk cs miso s.tick

/-- Settles O51: at rest and before the first step of an acquisition nothing is held; a step of the sequencer keeps the
samples held. -/
theorem stepKeepsTheSamplesHeld : Obligations.StepKeepsTheSamplesHeld := by
  intro s t hctl hheld h
  have htick : s.tick.HoldsSamples := ⟨hheld.acc, hheld.rxb, hheld.buf⟩
  refine step_keeps h htick ?accepts ?sequences ?delivers ?constructs
  case accepts => exact fun _ c => holdsSamples_of_not_started (Pos.started_first s.mode)
  case sequences => exact fun _ => sequencerStep_holdsSamples hctl.tick.inMode htick
  case delivers => exact fun _ _ r => holdsSamples_of_not_started rfl
  case constructs => exact fun m clk cs miso => holdsSamples_of_not_started rfl

theorem State.Accounted.accept {s : State} (h : s.Accounted) (hidle : s.seq = .idle) (c : CmdCode) :
    (accept c s).Accounted := by
  obtain ⟨hacq, hsamples, hmosi⟩ := h
  rw [hidle] at hacq hsamples
  constructor
  case acquisitions => rw [accept_frameNo, accept_trace, accept_seq, Pos.started_first]; exact hacq
  case samples => rw [accept_trace, accept_seq, Pos.taken_first]; exact hsamples
  case mosi => exact hmosi

theorem State.Accounted.sequencerStep {s : State} (h : s.Accounted) (hmode : s.seq.inMode s.mode = true)
    (hi : s.seq ≠ .idle) : (sequencerStep s).Accounted := by
  rcases ho : s.seq.op with _ | o
  · rwa [sequencerStep_of_no_op ho]
  have hd : s.seq ≠ .dec := Pos.ne_dec_of_op ho
  constructor
  case acquisitions =>
    have hcount := sequencerStep_frameNo_add_started hmode hi
    have hacq := h.acquisitions
    rw [countP_isResult_sequencerStep, sequencerStep_started hi, Bool.toNat_true]
    omega
  case samples =>
    rw [countP_isSample_sequencerStep ho, countP_isResult_sequencerStep, sequencerStep_seq hi hd, Pos.taken_next ho,
      h.samples, Nat.add_assoc]
  case mosi => rw [countP_isMosiWrite_sequencerStep, h.mosi]

/-- The operation that ends gives its acquisition and its 32 samples to its result. -/
theorem State.Accounted.deliver {s : State} (h : s.Accounted) (hd : s.seq = .dec) (r : Result) :
    (deliver r s).Accounted := by
  obtain ⟨hacq, hsamples, hmosi⟩ := h
  rw [hd] at hacq hsamples
  constructor
  case acquisitions => simpa [Event.isResult, Pos.started] using hacq
  case samples =>
    simp only [Pos.taken] at hsamples
    simp [Event.isResult, Event.isSample, Pos.taken, hsamples]
    omega
  case mosi => simpa [Event.isMosiWrite] using hmosi

theorem construct_accounted (m : Mode) (clk cs miso : LineId) (s : State) :
    (construct m clk cs miso s).Accounted := by
  constructor <;> simp [Pos.started, Pos.taken]

/-- Settles O52: each of the things a step can do keeps the accounts. -/
theorem stepKeepsTheAccounts : Obligations.StepKeepsTheAccounts := by
  intro s t hctl hacc h
  have htick : s.tick.Accounted := ⟨hacc.acquisitions, hacc.samples, hacc.mosi⟩
  refine step_keeps h htick ?accepts ?sequences ?delivers ?constructs
  case accepts => exact fun hb => htick.accept (hctl.seq_eq_idle hb)
  case sequences => exact fun hb => htick.sequencerStep hctl.inMode (hctl.seq_ne_idle hb)
  case delivers => exact fun _ => htick.deliver
  case constructs => exact fun m clk cs miso => construct_accounted m clk cs miso s.tick

end Sys2Proof.Machine
end

section
/-!
Runs with a host that keeps the protocol (`42_commands.md` R150), and the rest of what every step keeps: the
configuration, waiting at rest, and samples taken only while selected.
-/

namespace Sys2Proof.Machine

/-! ### Invariants -/

theorem construct_configured (m : Mode) (clk cs miso : LineId) (s : State) :
    (construct m clk cs miso s).Configured := by
  cases m <;> exact ⟨rfl, rfl, rfl, rfl⟩

theorem State.SameConfiguration.configured {s t : State} (hsame : s.SameConfiguration t) (h : s.Configured) :
    t.Configured := by
  constructor
  case clk => rw [hsame.clkId, hsame.mode, h.clk]
  case miso => rw [hsame.misoId, hsame.mode, h.miso]
  case bus => rw [hsame.bus, hsame.mode, h.bus]
  case mosi => rw [hsame.mosi, hsame.mode, h.mosi]

/-- Settles O49: a step keeps the configuration or constructs it anew. -/
theorem stepKeepsTheConfiguration : Obligations.StepKeepsTheConfiguration := by
  intro s t hconf h
  obtain hsame | ⟨-, -, -, m, clk, cs, miso, -, rfl⟩ := step_sameConfiguration_or_construct h
  · exact hsame.configured hconf
  · exact construct_configured m clk cs miso s.tick

/-- Settles O53: the state after reset has the fields of a construction, and at rest no sample is held. -/
theorem resetMeetsTheInvariants : Obligations.ResetMeetsTheInvariants := by
  refine ⟨?configured, ?controlled, holdsSamples_of_not_started rfl, ⟨rfl, rfl, rfl⟩⟩
  case configured =>
    unfold State.reset
    cases Config.strap <;> exact ⟨rfl, rfl, rfl, rfl⟩
  case controlled =>
    unfold State.reset
    cases Config.strap <;> exact ⟨rfl, rfl, rfl, rfl, nofun⟩

/-! ### Samples only while selected -/

/-- A position that takes a sample stands between the assertion and the deassertion of chip-select, and leaves it. -/
theorem Pos.csLevel_of_samples_pos {p : Pos} {o : MicroOp} (ho : p.op = some o) (hpos : 0 < o.samples) :
    p.csLevel = false ∧ ∀ b, o.csAfter b = b := by
  cases p with
  | m2c i | h3r k j =>
    cases ho
    exact ⟨rfl, fun _ => rfl⟩
  | idle | dec => cases ho
  | _ =>
    cases ho
    cases hpos

theorem sequencerStep_selected_of_sample {s : State} (h : s.Controlled)
    (hmore : s.trace.countP Event.isSample < (sequencerStep s).trace.countP Event.isSample) :
    s.cs = false ∧ (sequencerStep s).cs = false := by
  rcases ho : s.seq.op with _ | o
  · rw [sequencerStep_of_no_op ho] at hmore
    exact absurd hmore (lt_irrefl _)
  rw [countP_isSample_sequencerStep ho] at hmore
  obtain ⟨hlow, hkeep⟩ := Pos.csLevel_of_samples_pos ho (by omega)
  have hcs : s.cs = false := h.cs.trans hlow
  exact ⟨hcs, by rw [sequencerStep_cs_of_op ho, hkeep, hcs]⟩

/-- Settles O55: of the things a step can do, only the step of the sequencer appends a sample. -/
theorem samplesAreTakenOnlyWhileSelected : Obligations.SamplesAreTakenOnlyWhileSelected := by
  intro s t hctl h
  refine step_keeps (P := fun t => s.trace.countP Event.isSample < t.trace.countP Event.isSample →
    s.cs = false ∧ t.cs = false) h ?wait ?accepts ?sequences ?delivers ?constructs
  case wait => exact fun hmore => absurd hmore (lt_irrefl _)
  case accepts => exact fun _ c hmore => absurd hmore (lt_irrefl _)
  case sequences => exact fun _ => sequencerStep_selected_of_sample hctl.tick
  case delivers => simp [Event.isSample]
  case constructs => simp

/-! ### Runs that go on -/

/-- An invariant under which every state has a step that keeps it holds along a run of any length. -/
theorem run_of_progress {Inv : State → Prop} (hstep : ∀ s, Inv s → ∃ t, step s = .next t ∧ Inv t) (n : Nat)
    {s : State} (hs : Inv s) : ∃ t, run n s = .next t ∧ Inv t := by
  induction n generalizing s with
  | zero => exact ⟨s, run_zero s, hs⟩
  | succ n ih =>
    obtain ⟨u, hu, hinv⟩ := hstep s hs
    rw [run_succ_of_step hu]
    exact ih hinv

/-- Settles O46: by induction on the number of steps, each of which takes one quiet move away. -/
theorem idleBlockWaitsWhileTheHostIsQuiet : Obligations.IdleBlockWaitsWhileTheHostIsQuiet := by
  intro s n hb hq
  induction n generalizing s with
  | zero => rfl
  | succ n ih =>
    rw [run_succ_of_step (step_waiting hb (quietFor_head hq)), ih s.tick hb (quietFor_tail hq), State.tick_host,
      List.drop_tail]
    rfl

/-! ### The host that keeps the protocol -/

theorem hostServes_tail_of_quiet {m : Mode} {n : Nat} {h : List HostMove} (hq : h.getD 0 .quiet = .quiet)
    (hserves : hostServes m n h = true) : hostServes m (n - 1) h.tail = true := by
  rcases h with _ | ⟨move, rest⟩
  · rfl
  · obtain rfl : move = .quiet := by simpa using hq
    exact hserves

theorem hostServes_command {m : Mode} {n : Nat} {c : CmdCode} {rest : List HostMove}
    (h : hostServes m n (.request (.command c) :: rest) = true) :
    n = 0 ∧ hostServes m (operationSteps m) rest = true := by
  simpa [hostServes] using h

theorem hostServes_strap {m : Mode} {n : Nat} {l : Strap} {ids : List LineId} {rest : List HostMove}
    (h : hostServes m n (.request (.strap l ids) :: rest) = true) :
    (∃ i, decode (.strap l ids) = .ok i) ∧ hostServes (if l = 0#1 then .manual else .hardware) 0 rest = true := by
  simp only [hostServes] at h
  rcases hd : decodeStrap l ids with e | i
  · simp [hd] at h
  · refine ⟨⟨i, hd⟩, ?_⟩
    obtain ⟨clk, cs, miso, rfl, -, rfl⟩ | ⟨cs, rfl, -, rfl⟩ := decodeStrap_cases hd <;> simp_all

theorem Pos.stepsLeft_first (m : Mode) : (Pos.first m).stepsLeft = operationSteps m := by
  cases m <;> rfl

/-- A quiet step is one step fewer to rest, and none from rest. -/
theorem step_quiet_stepsLeft {s : State} (h : s.Controlled) (hq : s.host.getD 0 .quiet = .quiet) :
    ∃ t, step s = .next t ∧ t.seq.stepsLeft = s.seq.stepsLeft - 1 ∧ t.host = s.host.tail := by
  by_cases hi : s.seq = .idle
  · have hb : s.busy = false := by simpa [hi] using h.busy
    exact ⟨s.tick, step_waiting hb hq, by rw [State.tick_seq, hi]; rfl, rfl⟩
  · obtain ⟨t, hstep, hseq, -, hhost⟩ := step_running_seq h.busy hi hq
    have hleft := Pos.stepsLeft_next hi
    exact ⟨t, hstep, by rw [hseq]; omega, hhost⟩

/-- A host that keeps the protocol has its next move answered, and still keeps it (R150). -/
theorem step_served {s : State} (h : s.Controlled) (hserved : s.served = true) :
    ∃ t, step s = .next t ∧ t.served = true := by
  unfold State.served at hserved
  by_cases hq : s.host.getD 0 .quiet = .quiet
  · obtain ⟨t, hstep, hleft, hhost⟩ := step_quiet_stepsLeft h hq
    have hmode : t.mode = s.mode := by
      refine (configurationHoldsUntilTheNextReset s t ?_ hstep).1
      intro l ids rest hstrap
      simp [hstrap] at hq
    refine ⟨t, hstep, ?_⟩
    rw [State.served, hmode, hleft, hhost]
    exact hostServes_tail_of_quiet hq hserved
  · rcases hh : s.host with _ | ⟨_ | c | ⟨l, ids⟩, rest⟩
    · simp [hh] at hq
    · simp [hh] at hq
    · obtain ⟨hleft, hserves⟩ := hostServes_command (hh ▸ hserved)
      have hb : s.busy = false := by simpa [(Pos.stepsLeft_eq_zero_iff _).mp hleft] using h.busy
      exact ⟨_, step_accepting hb hh, by simpa [State.served, Pos.stepsLeft_first] using hserves⟩
    · obtain ⟨⟨i, hi⟩, hserves⟩ := hostServes_strap (hh ▸ hserved)
      obtain ⟨clk, cs, miso, hstep⟩ := step_releasing hh hi
      exact ⟨_, hstep, by simpa [State.served, Pos.stepsLeft] using hserves⟩

/-- Settles O57: control and a host that keeps the protocol give a step that keeps both. -/
theorem servedHostIsNeverRefused : Obligations.ServedHostIsNeverRefused := by
  intro s n hctl hserved
  refine run_of_progress (Inv := fun s => s.Controlled ∧ s.served = true) ?_ n ⟨hctl, hserved⟩
  rintro s ⟨hctl, hserved⟩
  obtain ⟨t, hstep, ht⟩ := step_served hctl hserved
  exact ⟨t, hstep, stepKeepsControlAndLines s t hctl hstep, ht⟩

end Sys2Proof.Machine
end

section
/-!
Decoding against encoding (`30_encoding.md` sections 2 and 4): a request decodes to exactly the operation that it
encodes, and a list of bytes presents on a port exactly the request whose one byte it is.
-/

namespace Sys2Proof

/-! ### Requests -/

/-- The opcode map is read back by the encoder (R73). -/
theorem encode_decodeCommand (c : CmdCode) : encode (decodeCommand c) = .command c := by
  decide +revert

theorem decodeCommand_eq_iff (c : CmdCode) (i : Instr) : decodeCommand c = i ↔ .command c = encode i := by
  constructor
  · rintro rfl
    exact (encode_decodeCommand c).symm
  · intro h
    cases i <;> cases h <;> rfl

theorem decodeStrap_eq_ok_iff (m : Strap) (ids : List LineId) (i : Instr) :
    decodeStrap m ids = .ok i ↔ .strap m ids = encode i := by
  constructor
  · intro h
    obtain ⟨clk, cs, miso, rfl, rfl, rfl⟩ | ⟨cs, rfl, rfl, rfl⟩ := Machine.decodeStrap_cases h <;> rfl
  · intro h
    cases i <;> cases h <;> rfl

theorem decode_eq_ok_iff (r : Request) (i : Instr) : decode r = .ok i ↔ r = encode i := by
  cases r with
  | command c => rw [← decodeCommand_eq_iff, decode, Except.ok.injEq]
  | strap m ids => exact decodeStrap_eq_ok_iff m ids i

/-! ### Bytes -/

/-- A byte fits `w` bits and reads as `x` there exactly when it is `x` with 0 above. -/
theorem fits_and_setWidth_eq_iff {w : Nat} (hw : w ≤ 8) (b : Byte) (x : BitVec w) :
    (b.toNat < 2 ^ w ∧ b.setWidth w = x) ↔ b = x.setWidth 8 := by
  constructor
  · rintro ⟨hfits, rfl⟩
    apply BitVec.eq_of_toNat_eq
    rw [BitVec.toNat_setWidth_of_le hw, BitVec.toNat_setWidth, Nat.mod_eq_of_lt hfits]
  · rintro rfl
    have hread : (x.setWidth 8).setWidth w = x := by
      rw [BitVec.setWidth_setWidth_of_le x hw, BitVec.setWidth_eq]
    exact ⟨by rw [BitVec.toNat_setWidth_of_le hw]; exact x.isLt, hread⟩

theorem requestOfByte_command_eq_ok_iff (b : Byte) (ids : List LineId) (r : Request) :
    requestOfByte .command b ids = .ok r ↔ r.port = .command ∧ b = r.byte := by
  cases r with
  | command c =>
    have hfits := fits_and_setWidth_eq_iff (by decide) b c
    by_cases hb : b.toNat < 4 <;> simpa [requestOfByte, Request.port, Request.byte, hb] using hfits
  | strap m ids' =>
    simp only [requestOfByte]
    split <;> simp [Request.port]

theorem requestOfByte_strap_eq_ok_iff (b : Byte) (ids : List LineId) (r : Request) :
    requestOfByte .strap b ids = .ok r ↔ r.port = .strap ∧ b = r.byte ∧ ids = r.ids := by
  cases r with
  | command c =>
    simp only [requestOfByte]
    split <;> simp [Request.port]
  | strap m ids' =>
    have hfits := fits_and_setWidth_eq_iff (by decide) b m
    by_cases hb : b.toNat < 2 <;> simp [requestOfByte, Request.port, Request.byte, Request.ids, hb, ← hfits]

theorem requestOfByte_eq_ok_iff (p : Port) (b : Byte) (ids : List LineId) (r : Request) :
    requestOfByte p b ids = .ok r ↔ r.port = p ∧ b = r.byte ∧ (p = .strap → ids = r.ids) := by
  cases p with
  | command => simp [requestOfByte_command_eq_ok_iff]
  | strap => simp [requestOfByte_strap_eq_ok_iff]

theorem requestOfBytes_eq_ok_iff (p : Port) (bytes : List Byte) (ids : List LineId) (r : Request) :
    requestOfBytes p bytes ids = .ok r ↔ r.port = p ∧ bytes = [r.byte] ∧ (p = .strap → ids = r.ids) := by
  rcases bytes with _ | ⟨b, _ | ⟨b', bs⟩⟩
  · simp [requestOfBytes]
  · simp [requestOfBytes, requestOfByte_eq_ok_iff]
  · simp [requestOfBytes]

theorem decodeBytes_eq_ok_iff (p : Port) (bytes : List Byte) (ids : List LineId) (i : Instr) :
    decodeBytes p bytes ids = .ok i ↔ requestOfBytes p bytes ids = .ok (encode i) := by
  unfold decodeBytes
  rcases requestOfBytes p bytes ids with e | r
  · simp
  · simp [decode_eq_ok_iff]

/-! ### The statements -/

/-- Settles O5: the bytes present the operation's own request, and a request decodes to the operation it encodes. -/
theorem bytesDecodeExactlyToWhatTheyEncode : Obligations.BytesDecodeExactlyToWhatTheyEncode := by
  intro p bytes ids i
  rw [decodeBytes_eq_ok_iff, requestOfBytes_eq_ok_iff]

/-- Settles O4: on either port the decoder's table is the encoder's. -/
theorem decodeIsTheInverseOfEncode : Obligations.DecodeIsTheInverseOfEncode :=
  decode_eq_ok_iff

/-- Settles O2: either level is looked up in the strap map (R74). -/
theorem strapLevelsDecodeAsTheConstructions : Obligations.StrapLevelsDecodeAsTheConstructions :=
  fun _ _ _ => ⟨rfl, rfl⟩

/-- Settles O3: the width of each word picks its port, where it is looked up. -/
theorem tableWordsDecodeToTheirRows : Obligations.TableWordsDecodeToTheirRows :=
  ⟨rfl, rfl, rfl, rfl, rfl, rfl⟩

/-- Settles O6: the number of bytes is looked at first, then the bits outside the port. -/
theorem otherPresentationsAreRefusedByName : Obligations.OtherPresentationsAreRefusedByName := by
  intro p b b' bs ids
  refine ⟨rfl, rfl, ?command, ?strap⟩
  case command =>
    intro hb
    simp [decodeBytes, requestOfBytes, requestOfByte, Nat.not_lt.mpr hb]
  case strap =>
    intro hb
    simp [decodeBytes, requestOfBytes, requestOfByte, Nat.not_lt.mpr hb]

end Sys2Proof
end

section
/-!
What the results read of a frame (`41_decoder.md` sections 3 and 5): the Fahrenheit reading from the Celsius one, and
the results from the fields.
-/

namespace Sys2Proof.Machine

/-- The two gated readings are invalid together. -/
theorem probeFahrenheit_eq_invalid_iff (v : Frame) : probeFahrenheit v = .invalid ↔ probeCelsius v = .invalid := by
  rw [probeFahrenheit]
  cases probeCelsius v <;> simp

/-- Settles O11: Fahrenheit is made from the Celsius reading, and its count from the probe count. -/
theorem probeFahrenheitIsNineFifthsPlusThirtyTwo : Obligations.ProbeFahrenheitIsNineFifthsPlusThirtyTwo := by
  intro v
  obtain ⟨hlo, hhi⟩ := fahrenheitCount_range v
  refine ⟨probeFahrenheit_eq_invalid_iff v, ?value, ?count, hlo, hhi⟩
  case value =>
    intro c hc
    simp only [probeFahrenheit, hc, mul_div_assoc]
  case count =>
    intro hgood
    rw [probeFahrenheit_eq, if_pos ((faultCode_eq_zero_iff v).mpr hgood), mul_one_div, fahrenheitCount]
    push_cast
    rfl

/-- The sign and the magnitude are the parts of `v[15:4]`. -/
theorem internalCount_congr_of_field {v w : Frame} (h : w.extractLsb' 4 12 = v.extractLsb' 4 12) :
    internalCount w = internalCount v :=
  internalCount_congr_of_mask ((extractLsb'_eq_iff_mask_eq 4 (by decide)).mp h)

/-- Settles O16: the fault code is `v[2:0]`, the probe count that of `v[31:18]`, and the internal count that of
`v[15:4]`. -/
theorem decoderReadsOnlyItsFields : Obligations.DecoderReadsOnlyItsFields := by
  intro v w
  refine ⟨?error, ?probe, ?internal⟩
  case error =>
    intro hcode
    have hcode : faultCode w = faultCode v := hcode
    rw [resultError, hcode, resultError]
  case probe =>
    intro hprobe hcode
    have hcode : faultCode w = faultCode v := hcode
    have hcount : probeCount w = probeCount v := probeCount_congr hprobe
    simp only [resultCelsius_eq, resultFahrenheit_eq, fahrenheitCount, hcode, hcount, and_self]
  case internal =>
    intro hfield
    rw [resultInternal, internalCount_congr_of_field hfield, resultInternal]

/-- Settles O19: the all-ones frame has every fault bit; the all-zeros frame has none, and its counts are 0, so that
Fahrenheit is the offset 32 alone. -/
theorem disconnectedPeerFramesDecode : Obligations.DisconnectedPeerFramesDecode := by
  have hones : faultCode 0xFFFFFFFF#32 ≠ 0#3 := by decide
  have hzeros : faultCode 0x00000000#32 = 0#3 := by decide
  have hprobe : probeCount 0x00000000#32 = 0 := by decide
  have hinternal : internalCount 0x00000000#32 = 0 := by decide
  refine ⟨⟨by decide, ?_, ?_, by decide⟩, hzeros, ?_, ?_, ?_⟩
  · rw [probeCelsius_eq, if_neg hones]
  · rw [probeFahrenheit_eq, if_neg hones]
  · rw [probeCelsius_eq, if_pos hzeros, hprobe, Int.cast_zero, zero_mul]
  · rw [probeFahrenheit_eq, if_pos hzeros, fahrenheitCount, hprobe]
    norm_num
  · rw [internalCelsius, hinternal, Int.cast_zero, zero_mul]

/-- Settles O20: the frame has the samples as its bits, the first on top. -/
theorem frameIsMostSignificantBitFirst : Obligations.FrameIsMostSignificantBitFirst :=
  fun f => ⟨toNat_frameValue f, getLsbD_frameValue f⟩

end Sys2Proof.Machine
end

section
/-!
The step and its parts against the rules that state them (`10_state.md` section 5, `40_transport.md` section 4,
`42_commands.md` sections 1 and 4): the byte placed by `FALL`, the listed sequences, which instruction a step runs and
which requests it refuses, and the step of a running command at its position.
-/

namespace Sys2Proof.Machine

/-! ### The falling edge -/

theorem fall_eq (k : Fin 4) (j : Fin 8) (s : State) :
    fall k j s = { s with
      sck := false
      buf := (fall k j s).buf
      trace := s.trace ++ [.write .sck false] } := by
  unfold fall
  split <;> rfl

/-- `BUF[n]` is the byte placed when the slot is the last of byte `3 - n`. -/
theorem fall_buf_getElem (k : Fin 4) (j : Fin 8) (s : State) (n : Fin 4) :
    (fall k j s).buf[n] = if j = 7 ∧ n.val + k.val = 3 then s.rxb else s.buf[n] := by
  have hplace : n.val + k.val = 3 ↔ 3 - k.val = n.val := by omega
  rw [fall_buf]
  by_cases hj : j = 7
  · simp only [hj, if_true, true_and, hplace]
    exact Vector.getElem_set _ _
  · simp [hj]

/-- Settles O26: the edge is the line write, and the byte goes to its place after the last slot alone. -/
theorem fallPlacesTheCompleteByte : Obligations.FallPlacesTheCompleteByte := by
  rintro k j s t rfl
  refine ⟨?rest, fall_buf_getElem k j s⟩
  case rest =>
    show { fall k j s with buf := s.buf } = _
    rw [fall_eq]

/-! ### The listed sequences -/

/-- The successors of a list of successors are that list moved by one. -/
theorem map_iterate_succ {α : Type} (f : α → α) (a : α) (n : Nat) :
    (List.iterate f a (n + 1)).map f = (List.iterate f a (n + 1)).tail ++ [f^[n + 1] a] := by
  induction n generalizing a with
  | zero => rfl
  | succ n ih =>
    rw [List.iterate, List.map_cons, ih, List.tail_cons, Function.iterate_succ_apply f (n + 1) a]
    rfl

/-- `DEC` follows the last position of either sequence. -/
theorem iterate_next_first (m : Mode) : Pos.next^[operationSteps m - 1] (Pos.first m) = .dec := by
  cases m <;> decide +kernel

theorem length_sequenceOf (m : Mode) : (sequenceOf m).length = operationSteps m - 1 := by
  rw [sequenceOf_eq_iterate, List.length_iterate]

theorem map_next_sequenceOf (m : Mode) : (sequenceOf m).map Pos.next = (sequenceOf m).tail ++ [.dec] := by
  obtain ⟨n, hn⟩ : ∃ n, operationSteps m - 1 = n + 1 := by cases m <;> exact ⟨_, rfl⟩
  rw [sequenceOf_eq_iterate, hn, map_iterate_succ, ← hn, iterate_next_first]

/-- Settles O27: either sequence is the iteration of the successor from the first position up to `DEC`. -/
theorem sequencesAreTheListedOnes : Obligations.SequencesAreTheListedOnes :=
  ⟨length_sequenceOf .manual, length_sequenceOf .hardware, rfl, rfl, map_next_sequenceOf .manual,
    map_next_sequenceOf .hardware⟩

/-! ### What a step runs -/

theorem step_of_request {s : State} {r : Request} {rest : List HostMove} {i : Instr} (hh : s.host = .request r :: rest)
    (hi : decode r = .ok i) (hrest : i.isCommand = true → s.busy = false) :
    step s = exec i { s with host := rest } := by
  have hpasses : (i.isCommand && s.busy) = false := by
    rcases hc : i.isCommand with _ | _
    · rfl
    · exact hrest hc
  simp [step, fetch, hh, present, hi, hpasses]

theorem step_of_busy_command {s : State} {r : Request} {rest : List HostMove} {i : Instr}
    (hh : s.host = .request r :: rest) (hi : decode r = .ok i) (hc : i.isCommand = true) (hb : s.busy = true) :
    step s = .refused .commandWhileBusy := by
  simp [step, fetch, hh, present, hi, hc, hb]

theorem step_of_malformed {s : State} {r : Request} {rest : List HostMove} {e : DecodeError}
    (hh : s.host = .request r :: rest) (he : decode r = .error e) : step s = .refused .malformedRequest := by
  simp [step, fetch, hh, present, he]

/-- A strap that decodes has the number of identifiers of its entry point (R74). -/
theorem length_of_decodeStrap {l : Strap} {ids : List LineId} {i : Instr} (h : decodeStrap l ids = .ok i) :
    ids.length = if l = 0#1 then 3 else 1 := by
  obtain ⟨_, _, _, rfl, rfl, -⟩ | ⟨_, rfl, rfl, -⟩ := decodeStrap_cases h <;> rfl

/-- Settles O28: the instruction of a request, of `OPR`, or none. -/
theorem stepRunsTheDecodedInstruction : Obligations.StepRunsTheDecodedInstruction := by
  refine ⟨fun s r rest i => step_of_request, ?running, fun s hq hb => step_waiting hb hq⟩
  case running =>
    intro s hq hb
    rw [step_running hb hq, exec_decodeCommand]
    rfl

/-- Settles O29: a command at rest is accepted, and `SEQ` is the first position of the mode. -/
theorem idleBlockAcceptsACommand : Obligations.IdleBlockAcceptsACommand := by
  intro s c rest hb hh
  rw [step_accepting hb hh]
  rfl

/-- Settles O30: the fetch refuses the command, and a read command's meaning one of another code. -/
theorem commandWhileBusyIsRefused : Obligations.CommandWhileBusyIsRefused := by
  refine ⟨fun s c rest hb hh => step_of_busy_command hh rfl (isCommand_decodeCommand c) hb, ?meaning⟩
  case meaning =>
    intro s c hb hc
    rw [exec_decodeCommand, readCommand, if_pos hb, if_neg hc]

/-- Settles O31: no operation takes that number of identifiers, so the strap does not decode. -/
theorem malformedConstructionIsRefused : Obligations.MalformedConstructionIsRefused := by
  intro s l ids rest hh hlen
  rcases hd : decodeStrap l ids with e | i
  · exact step_of_malformed hh hd
  · exact absurd (length_of_decodeStrap hd) hlen

/-! ### The step of a running command -/

/-- What the first step of an acquisition also does, at any position (R90, R96). -/
theorem openAcquisition_eq (p : Pos) (s : State) :
    openAcquisition p s = { s with
      frameNo := if p = .m1a ∨ p = .h2a then s.frameNo + 1 else s.frameNo
      acc := if p = .m1a then 0#32 else s.acc } := by
  cases p <;> rfl

/-- Settles O32: a running command makes the step of the sequencer at `SEQ`. -/
theorem runningCommandMakesTheStepAtSeq : Obligations.RunningCommandMakesTheStepAtSeq := by
  intro s o hb ho
  rw [exec_decodeCommand, readCommand_running hb rfl (Pos.ne_dec_of_op ho), sequencerStep_of_op ho, openAcquisition_eq]

/-! ### What a step of a read command leaves unchanged -/

theorem Pos.writes_cs {p : Pos} {o : MicroOp} {b : Level} (ho : p.op = some o) (h : o.csAfter b ≠ b) :
    p = .m1c ∨ p = .m3 ∨ p = .h2a ∨ p = .h4 := by
  cases p with
  | m1c | m3 | h2a | h4 => simp
  | idle | dec => cases ho
  | _ =>
    cases ho
    exact absurd rfl h

theorem Pos.writes_sck {p : Pos} {o : MicroOp} {b : Level} (ho : p.op = some o) (h : o.sckAfter b ≠ b) :
    p = .m1a ∨ (∃ n, p = .m2a n ∨ p = .m2d n) ∨ ∃ k j, p = .h3r k j ∨ p = .h3f k j := by
  cases p with
  | m1a | m2a | m2d | h3r | h3f => simp
  | idle | dec => cases ho
  | _ =>
    cases ho
    exact absurd rfl h

theorem sequencerStep_cs_ne {s : State} (h : (sequencerStep s).cs ≠ s.cs) :
    s.seq = .m1c ∨ s.seq = .m3 ∨ s.seq = .h2a ∨ s.seq = .h4 := by
  rcases ho : s.seq.op with _ | o
  · exact absurd (congrArg State.cs (sequencerStep_of_no_op ho)) h
  · exact Pos.writes_cs ho (sequencerStep_cs_of_op ho ▸ h)

theorem sequencerStep_sck_ne {s : State} (h : (sequencerStep s).sck ≠ s.sck) :
    s.seq = .m1a ∨ (∃ n, s.seq = .m2a n ∨ s.seq = .m2d n) ∨ ∃ k j, s.seq = .h3r k j ∨ s.seq = .h3f k j := by
  rcases ho : s.seq.op with _ | o
  · exact absurd (congrArg State.sck (sequencerStep_of_no_op ho)) h
  · exact Pos.writes_sck ho (sequencerStep_sck_of_op ho ▸ h)

theorem sequencerStep_acc_ne {s : State} (h : (sequencerStep s).acc ≠ s.acc) :
    s.seq = .m1a ∨ ∃ n, s.seq = .m2c n := by
  by_contra hne
  rw [not_or, not_exists] at hne
  exact h (sequencerStep_acc_of_ne hne.1 hne.2)

theorem sequencerStep_rxb_ne {s : State} (h : (sequencerStep s).rxb ≠ s.rxb) : ∃ k j, s.seq = .h3r k j := by
  by_contra hne
  exact h (sequencerStep_rxb_of_ne fun k j hp => hne ⟨k, j, hp⟩)

theorem sequencerStep_buf_ne {s : State} {n : Fin 4} (h : (sequencerStep s).buf[n] ≠ s.buf[n]) :
    ∃ k : Fin 4, s.seq = .h3f k 7 ∧ n.val + k.val = 3 := by
  by_cases hfall : ∃ k j, s.seq = .h3f k j
  · obtain ⟨k, j, hp⟩ := hfall
    have hbuf : (sequencerStep s).buf = (fall k j s).buf := by rw [sequencerStep_at_h3f hp, fall_buf]
    rw [hbuf, fall_buf_getElem] at h
    by_cases hplaced : j = 7 ∧ n.val + k.val = 3
    · obtain ⟨rfl, hn⟩ := hplaced
      exact ⟨k, hp, hn⟩
    · exact absurd (if_neg hplaced) h
  · have hne : ∀ k j, s.seq ≠ .h3f k j := fun k j hp => hfall ⟨k, j, hp⟩
    exact absurd (by rw [sequencerStep_buf_of_ne hne]) h

theorem sequencerStep_frameNo (s : State) :
    (sequencerStep s).frameNo = if s.seq = .m1a ∨ s.seq = .h2a then s.frameNo + 1 else s.frameNo := by
  rcases ho : s.seq.op with _ | o
  · rw [sequencerStep_of_no_op ho]
    obtain hp | hp := (Pos.op_eq_none_iff s.seq).mp ho <;> simp [hp]
  · simp [sequencerStep_of_op ho, openAcquisition_eq]

theorem accept_eq (c : CmdCode) (s : State) :
    accept c s = { s with opr := c, busy := true, seq := Pos.first s.mode } := rfl

/-- Settles O41: acceptance and delivery write no line and no working register; the step of the sequencer writes each at
its own positions. -/
theorem readCommandFrame : Obligations.ReadCommandFrame := by
  intro i s t hi h
  obtain ⟨c, rfl⟩ := Instr.exists_code hi
  rw [exec_decodeCommand] at h
  obtain ⟨hb, rfl⟩ | ⟨hb, -, -, rfl⟩ | ⟨hb, -, hd, rfl⟩ := readCommand_cases h
  case inl => simp [hb, accept_eq]
  case inr.inl =>
    refine ⟨by simp, by simp [hb], fun _ => sequencerStep_opr s, fun hne => ⟨hb, sequencerStep_cs_ne hne⟩,
      fun hne => ⟨hb, sequencerStep_sck_ne hne⟩, fun hne => ⟨hb, sequencerStep_acc_ne hne⟩,
      fun hne => ⟨hb, sequencerStep_rxb_ne hne⟩, fun _ hne => ⟨hb, sequencerStep_buf_ne hne⟩, ?_, sequencerStep_trace s⟩
    simp [hb, sequencerStep_frameNo]
  case inr.inr => simp [hb, hd]

/-! ### Control does not depend on the samples -/

/-- `t` has the control, the lines, the acquisition count and the host of `s`; what is sampled and held may differ. -/
structure State.SameControl (s t : State) : Prop where
  seq : t.seq = s.seq
  busy : t.busy = s.busy
  opr : t.opr = s.opr
  mode : t.mode = s.mode
  cs : t.cs = s.cs
  sck : t.sck = s.sck
  mosi : t.mosi = s.mosi
  frameNo : t.frameNo = s.frameNo
  host : t.host = s.host

namespace State.SameControl

variable {s s' t : State}

theorem with_host (h : s.SameControl s') (rest : List HostMove) :
    { s with host := rest }.SameControl { s' with host := rest } :=
  ⟨h.seq, h.busy, h.opr, h.mode, h.cs, h.sck, h.mosi, h.frameNo, rfl⟩

theorem tick (h : s.SameControl s') : s.tick.SameControl s'.tick :=
  ⟨h.seq, h.busy, h.opr, h.mode, h.cs, h.sck, h.mosi, h.frameNo, by simp [h.host]⟩

theorem accept (h : s.SameControl s') (c : CmdCode) : (accept c s).SameControl (accept c s') :=
  ⟨by simp [h.mode], rfl, rfl, h.mode, h.cs, h.sck, h.mosi, h.frameNo, h.host⟩

theorem deliver (h : s.SameControl s') (r r' : Result) : (deliver r s).SameControl (deliver r' s') :=
  ⟨rfl, rfl, h.opr, h.mode, h.cs, h.sck, h.mosi, h.frameNo, h.host⟩

theorem construct (h : s.SameControl s') (m : Mode) (clk cs miso : LineId) :
    (construct m clk cs miso s).SameControl (construct m clk cs miso s') :=
  ⟨rfl, rfl, rfl, rfl, rfl, rfl, rfl, rfl, h.host⟩

theorem sequencerStep (h : s.SameControl s') : (sequencerStep s).SameControl (sequencerStep s') := by
  rcases ho : s.seq.op with _ | o
  · rwa [sequencerStep_of_no_op ho, sequencerStep_of_no_op (h.seq ▸ ho)]
  have ho' : s'.seq.op = some o := h.seq ▸ ho
  constructor
  case seq => simp [sequencerStep_of_op ho, sequencerStep_of_op ho', h.seq]
  case cs => rw [sequencerStep_cs_of_op ho, sequencerStep_cs_of_op ho', h.cs]
  case sck => rw [sequencerStep_sck_of_op ho, sequencerStep_sck_of_op ho', h.sck]
  case frameNo => simp [sequencerStep_frameNo, h.seq, h.frameNo]
  case busy => simp [h.busy]
  case opr => simp [h.opr]
  case mode => simp [h.mode]
  case mosi => simp [h.mosi]
  case host => simp [h.host]

/-- The meaning of an instruction answers alike, from the control alone. -/
theorem exec (h : s.SameControl s') {i : Instr} (ht : exec i s = .next t) :
    ∃ t', exec i s' = .next t' ∧ t.SameControl t' := by
  by_cases hi : i.isCommand = true
  · obtain ⟨c, rfl⟩ := Instr.exists_code hi
    rw [exec_decodeCommand] at ht ⊢
    obtain ⟨hb, rfl⟩ | ⟨hb, hc, hd, rfl⟩ | ⟨hb, hc, hd, rfl⟩ := readCommand_cases ht
    · exact ⟨_, readCommand_at_rest (h.busy.trans hb), h.accept c⟩
    · exact ⟨_, readCommand_running (h.busy.trans hb) (h.opr.trans hc) (h.seq ▸ hd), h.sequencerStep⟩
    · exact ⟨_, readCommand_at_dec (h.busy.trans hb) (h.opr.trans hc) (h.seq.trans hd), h.deliver _ _⟩
  · cases i with
    | constructManual clk cs miso =>
      cases ht
      exact ⟨_, rfl, h.construct .manual clk cs miso⟩
    | constructHw cs =>
      cases ht
      exact ⟨_, rfl, h.construct .hardware cs cs cs⟩
    | _ => exact absurd rfl hi

/-- So does a step: which instruction it runs is a matter of the host's move and of control. -/
theorem step (h : s.SameControl s') (ht : step s = .next t) : ∃ t', step s' = .next t' ∧ t.SameControl t' := by
  by_cases hq : s.host.getD 0 .quiet = .quiet
  · have hq' : s'.host.getD 0 .quiet = .quiet := h.host ▸ hq
    rcases hb : s.busy with _ | _
    · rw [step_waiting hb hq] at ht
      cases ht
      exact ⟨_, step_waiting (h.busy.trans hb) hq', h.tick⟩
    · rw [step_running hb hq, ← exec_decodeCommand] at ht
      rw [step_running (h.busy.trans hb) hq', ← exec_decodeCommand, h.opr]
      exact h.tick.exec ht
  · rcases hh : s.host with _ | ⟨_ | r, rest⟩
    · simp [hh] at hq
    · simp [hh] at hq
    · rcases hi : decode r with e | i
      · rw [step_of_malformed hh hi] at ht
        cases ht
      · by_cases hrest : i.isCommand = true → s.busy = false
        · rw [step_of_request hh hi hrest] at ht
          rw [step_of_request (h.host.trans hh) hi (h.busy ▸ hrest)]
          exact (h.with_host rest).exec ht
        · obtain ⟨hc, hb⟩ : i.isCommand = true ∧ s.busy = true := by simpa using hrest
          rw [step_of_busy_command hh hi hc hb] at ht
          cases ht

end State.SameControl

/-- Settles O58: other answers and other data held leave control the same, and a step then keeps it the same. -/
theorem peerNeverSteersControl : Obligations.PeerNeverSteersControl := by
  intro s t o l a x b ht
  have hsame : s.SameControl { s with oracle := o, life := l, acc := a, rxb := x, buf := b } :=
    ⟨rfl, rfl, rfl, rfl, rfl, rfl, rfl, rfl, rfl⟩
  obtain ⟨t', hstep, ⟨hseq, hbusy, hopr, hmode, hcs, hsck, hmosi, hframe, hhost⟩⟩ := hsame.step ht
  exact ⟨t', hstep, hseq, hbusy, hopr, hmode, hcs, hsck, hmosi, hframe, hhost⟩

end Sys2Proof.Machine
end

section
/-!
Whole operations (`40_transport.md` sections 3 to 5, `42_commands.md` section 1): every field of the state at `DEC`
after a whole acquisition, in either strategy, so that an operation from rest leads to exactly one state; that both
strategies return the same; and that two commands take two acquisitions.
-/

namespace Sys2Proof.Machine

/-! ### What an acquisition leaves unchanged -/

section Acquisition

variable {s : State}

/-- What no step of the sequencer changes, an acquisition does not change. -/
theorem acquisition_keeps {α : Type} {f : State → α} (hstep : ∀ t, f (sequencerStep t) = f t) (s : State) :
    f (acquisition s) = f s :=
  sequencerSteps_keeps (P := fun t => f t = f s) (fun t ht => (hstep t).trans ht) _ rfl

/-- What no step of the sequencer at the strategy's own positions changes, an acquisition does not change. -/
theorem acquisition_keeps_inMode {α : Type} {f : State → α}
    (hstep : ∀ t, t.mode = s.mode → t.seq.inMode t.mode = true → f (sequencerStep t) = f t)
    (hfirst : s.seq = Pos.first s.mode) : f (acquisition s) = f s := by
  have hmode : s.seq.inMode s.mode = true := by rw [hfirst, Pos.inMode_first]
  exact (sequencerSteps_keeps (P := fun t => (t.mode = s.mode ∧ t.seq.inMode t.mode = true) ∧ f t = f s)
    (fun t ⟨⟨hm, hp⟩, ht⟩ => ⟨⟨(sequencerStep_mode t).trans hm, sequencerStep_inMode hp⟩, (hstep t hm hp).trans ht⟩)
    _ ⟨⟨rfl, hmode⟩, rfl⟩).2

theorem acquisition_mode (s : State) : (acquisition s).mode = s.mode := acquisition_keeps sequencerStep_mode s

theorem acquisition_oracle (s : State) : (acquisition s).oracle = s.oracle := acquisition_keeps sequencerStep_oracle s

theorem acquisition_life (s : State) : (acquisition s).life = s.life := acquisition_keeps sequencerStep_life s

theorem acquisition_frameNo (hfirst : s.seq = Pos.first s.mode) : (acquisition s).frameNo = s.frameNo + 1 := by
  obtain ⟨n, hn⟩ : ∃ n, operationSteps s.mode - 1 = n + 1 := by cases s.mode <;> exact ⟨_, rfl⟩
  have hstarted : (sequencerStep s).seq.started = true :=
    sequencerStep_started (by rw [hfirst]; exact Pos.first_ne_idle s.mode)
  rw [acquisition, hn, sequencerSteps]
  exact (sequencerSteps_keeps (P := fun t => t.seq.started = true ∧ t.frameNo = s.frameNo + 1)
    (fun t ⟨hst, hframe⟩ => ⟨sequencerStep_started (Pos.ne_idle_of_started hst),
      (sequencerStep_frameNo_of_started hst).trans hframe⟩)
    n ⟨hstarted, sequencerStep_frameNo_of_first hfirst⟩).2

/-! ### The lines at the end of an acquisition -/

/-- An acquisition but for its last `n` steps ends where `n + 1` steps are left, at a position of the strategy. -/
theorem sequencerSteps_before_dec {n : Nat} (hfirst : s.seq = Pos.first s.mode) (hn : n < operationSteps s.mode) :
    ∃ u, acquisition s = sequencerSteps n u ∧ u.seq.stepsLeft = n + 1 ∧ u.seq.inMode s.mode = true := by
  have hleft := stepsLeft_of_first hfirst
  have hmode : s.seq.inMode s.mode = true := by rw [hfirst, Pos.inMode_first]
  obtain ⟨k, hk⟩ : ∃ k, operationSteps s.mode - 1 = k + n := ⟨operationSteps s.mode - 1 - n, by omega⟩
  have hcount := sequencerSteps_stepsLeft (n := k) (s := s) (by omega)
  refine ⟨sequencerSteps k s, by rw [acquisition, hk, sequencerSteps_add], by omega, ?_⟩
  obtain ⟨hin, hm⟩ := sequencerSteps_keeps (P := fun t => t.seq.inMode t.mode = true ∧ t.mode = s.mode)
    (fun t ⟨hp, hm⟩ => ⟨sequencerStep_inMode hp, (sequencerStep_mode t).trans hm⟩) k ⟨hmode, rfl⟩
  exact hm ▸ hin

theorem Pos.eq_m2d_of_stepsLeft {p : Pos} (hmode : p.inMode .manual = true) (h : p.stepsLeft = 4) : p = .m2d 31 := by
  cases p with
  | m2d i =>
    simp only [Pos.stepsLeft] at h
    obtain rfl : i = 31 := by apply Fin.ext; show i.val = 31; omega
    rfl
  | h2a | h2b | h3r | h3f | h4 => cases hmode
  | _ => simp only [Pos.stepsLeft] at h; omega

theorem Pos.eq_h3f_of_stepsLeft {p : Pos} (hmode : p.inMode .hardware = true) (h : p.stepsLeft = 3) : p = .h3f 3 7 := by
  cases p with
  | h3f k j =>
    simp only [Pos.stepsLeft] at h
    obtain rfl : k = 3 := by apply Fin.ext; show k.val = 3; omega
    obtain rfl : j = 7 := by apply Fin.ext; show j.val = 7; omega
    rfl
  | m1a | m1b | m1c | m1d | m2a | m2b | m2c | m2d | m2e | m3 => cases hmode
  | _ => simp only [Pos.stepsLeft] at h; omega

/-- The last steps of a manual acquisition raise the clock and deassert chip-select (R97, R98). -/
theorem acquisition_lines_manual (hm : s.mode = .manual) (hfirst : s.seq = Pos.first s.mode) :
    (acquisition s).cs = true ∧ (acquisition s).sck = true := by
  obtain ⟨u, hu, hleft, hin⟩ := sequencerSteps_before_dec (n := 3) hfirst (by rw [hm]; decide)
  have hp : u.seq = .m2d 31 := Pos.eq_m2d_of_stepsLeft (hm ▸ hin) hleft
  have h2 : (sequencerStep u).seq = .m2e 31 := by rw [sequencerStep_at_m2d hp]
  have h3 : (sequencerStep (sequencerStep u)).seq = .m3 := by rw [sequencerStep_at_m2e h2]; rfl
  rw [hu]
  simp only [sequencerSteps]
  rw [sequencerStep_at_m3 h3, sequencerStep_at_m2e h2, sequencerStep_at_m2d hp]
  exact ⟨rfl, rfl⟩

/-- The last steps of a hardware acquisition lower the clock and deassert chip-select (R105, R107). -/
theorem acquisition_lines_hardware (hm : s.mode = .hardware) (hfirst : s.seq = Pos.first s.mode) :
    (acquisition s).cs = true ∧ (acquisition s).sck = false := by
  obtain ⟨u, hu, hleft, hin⟩ := sequencerSteps_before_dec (n := 2) hfirst (by rw [hm]; decide)
  have hp : u.seq = .h3f 3 7 := Pos.eq_h3f_of_stepsLeft (hm ▸ hin) hleft
  have h2 : (sequencerStep u).seq = .h4 := by rw [sequencerStep_at_h3f hp]; rfl
  rw [hu]
  simp only [sequencerSteps]
  rw [sequencerStep_at_h4 h2, sequencerStep_at_h3f hp]
  exact ⟨rfl, rfl⟩

/-! ### The registers at the end of an acquisition -/

theorem acquisition_acc_manual (hm : s.mode = .manual) (hfirst : s.seq = Pos.first s.mode) :
    (acquisition s).acc = s.frameAt s.frameNo := by
  have hacq := acquisition_acquired hfirst
  rwa [State.acquired, acquisition_mode, hm] at hacq

theorem acquisition_rxb_manual (hm : s.mode = .manual) (hfirst : s.seq = Pos.first s.mode) :
    (acquisition s).rxb = s.rxb := by
  refine acquisition_keeps_inMode (fun t htm hp => sequencerStep_rxb_of_ne fun k j hseq => ?_) hfirst
  rw [htm, hm, hseq] at hp
  cases hp

theorem acquisition_buf_manual (hm : s.mode = .manual) (hfirst : s.seq = Pos.first s.mode) :
    (acquisition s).buf = s.buf := by
  refine acquisition_keeps_inMode (fun t htm hp => sequencerStep_buf_of_ne fun k j hseq => ?_) hfirst
  rw [htm, hm, hseq] at hp
  cases hp

theorem acquisition_acc_hardware (hm : s.mode = .hardware) (hfirst : s.seq = Pos.first s.mode) :
    (acquisition s).acc = s.acc := by
  refine acquisition_keeps_inMode (fun t htm hp => sequencerStep_acc_of_ne (fun hseq => ?_) fun i hseq => ?_) hfirst
  all_goals
    rw [htm, hm, hseq] at hp
    cases hp

theorem acquisition_rxb_hardware (hm : s.mode = .hardware) (hfirst : s.seq = Pos.first s.mode) :
    (acquisition s).rxb = (s.frameAt s.frameNo).extractLsb' 0 8 := by
  have hheld := (acquisition_holdsSamples hfirst).rxb ((acquisition_mode s).trans hm)
  rw [acquisition_seq hfirst, acquisition_frameNow hfirst] at hheld
  apply BitVec.eq_of_getLsbD_eq
  intro t ht
  rw [hheld rfl t ht, BitVec.getLsbD_extractLsb', decide_eq_true ht, Bool.true_and]
  rfl

theorem acquisition_buf_hardware (hm : s.mode = .hardware) (hfirst : s.seq = Pos.first s.mode) (k : Fin 4) :
    (acquisition s).buf[3 - k.val] = (s.frameAt s.frameNo).extractLsb' (24 - 8 * k.val) 8 := by
  have hheld := (acquisition_holdsSamples hfirst).buf ((acquisition_mode s).trans hm)
  rw [acquisition_seq hfirst, acquisition_frameNow hfirst] at hheld
  exact hheld rfl k k.isLt

/-! ### The state at the end of an acquisition -/

/-- At `DEC` the acquisition is counted and its events are in the trace; beyond that only the registers and lines of the
strategy may differ from before. -/
theorem acquisition_eq (hfirst : s.seq = Pos.first s.mode) :
    acquisition s = { s with
      cs := (acquisition s).cs
      sck := (acquisition s).sck
      acc := (acquisition s).acc
      rxb := (acquisition s).rxb
      buf := (acquisition s).buf
      seq := .dec
      frameNo := s.frameNo + 1
      trace := s.trace ++ eventsOf s.mode (s.frameAt s.frameNo) } := by
  rw [← acquisition_trace hfirst, ← acquisition_frameNo hfirst, ← acquisition_seq hfirst,
    ← acquisition_keeps sequencerStep_csId s, ← acquisition_keeps sequencerStep_clkId s,
    ← acquisition_keeps sequencerStep_misoId s, ← acquisition_keeps sequencerStep_bus s,
    ← acquisition_keeps sequencerStep_mosi s, ← acquisition_keeps sequencerStep_host s, ← acquisition_mode s,
    ← acquisition_oracle s, ← acquisition_life s, ← acquisition_opr s, ← acquisition_busy s]

theorem acquisition_manual (hm : s.mode = .manual) (hfirst : s.seq = Pos.first s.mode) :
    acquisition s = { s with
      cs := true
      sck := true
      acc := s.frameAt s.frameNo
      seq := .dec
      frameNo := s.frameNo + 1
      trace := s.trace ++ manualEvents (s.frameAt s.frameNo) } := by
  obtain ⟨hcs, hsck⟩ := acquisition_lines_manual hm hfirst
  rw [acquisition_eq hfirst, hcs, hsck, acquisition_acc_manual hm hfirst, acquisition_rxb_manual hm hfirst,
    acquisition_buf_manual hm hfirst]
  simp only [hm, eventsOf]

/-- The bytes of a frame in their places in `BUF`, index 3 most significant (R52). -/
def frameBytes (v : Frame) : Vector Byte 4 :=
  #v[v.extractLsb' 0 8, v.extractLsb' 8 8, v.extractLsb' 16 8, v.extractLsb' 24 8]

theorem eq_frameBytes_of_getElem {b : Vector Byte 4} {v : Frame}
    (hbytes : ∀ k : Fin 4, b[3 - k.val] = v.extractLsb' (24 - 8 * k.val) 8) : b = frameBytes v := by
  refine Vector.ext fun n hn => ?_
  have hbyte := hbytes ⟨3 - n, by omega⟩
  interval_cases n <;> exact hbyte

theorem bufferFrame_frameBytes (v : Frame) : bufferFrame (frameBytes v) = v := by
  refine bufferFrame_eq_of_bytes fun k => ?_
  fin_cases k <;> rfl

theorem acquisition_hardware (hm : s.mode = .hardware) (hfirst : s.seq = Pos.first s.mode) :
    acquisition s = { s with
      cs := true
      sck := false
      rxb := (s.frameAt s.frameNo).extractLsb' 0 8
      buf := frameBytes (s.frameAt s.frameNo)
      seq := .dec
      frameNo := s.frameNo + 1
      trace := s.trace ++ hardwareEvents (s.frameAt s.frameNo) } := by
  obtain ⟨hcs, hsck⟩ := acquisition_lines_hardware hm hfirst
  rw [acquisition_eq hfirst, hcs, hsck, acquisition_acc_hardware hm hfirst, acquisition_rxb_hardware hm hfirst,
    eq_frameBytes_of_getElem (acquisition_buf_hardware hm hfirst)]
  simp only [hm, eventsOf]

end Acquisition

/-! ### Whole operations -/

/-- The frame of an acquisition is the one that has its samples as bits (R51). -/
theorem State.eq_frameAt {s : State} {n : Nat} {v : Frame}
    (hv : ∀ i : Fin 32, v.getLsbD (31 - i.val) = s.sampleAt n i) : v = s.frameAt n := by
  apply BitVec.eq_of_getLsbD_eq
  intro t ht
  have hbit := getLsbD_frameValue (s.sampleAt n) ⟨31 - t, by omega⟩
  rw [← hv] at hbit
  have hindex : 31 - (31 - t) = t := by omega
  rw [← hindex]
  exact hbit.symm

section Operation

variable {s : State} {c : CmdCode} {rest : List HostMove}

/-- A whole manual operation from rest, by its own frame. -/
theorem run_manual_operation (hm : s.mode = .manual) (hb : s.busy = false)
    (hh : s.host = .request (.command c) :: rest) (hq : quietFor (operationSteps s.mode) rest) :
    run (operationSteps s.mode + 1) s = .next { s with
      opr := c
      frameNo := s.frameNo + 1
      acc := s.frameAt s.frameNo
      cs := true
      sck := true
      seq := .idle
      busy := false
      host := rest.drop (operationSteps s.mode)
      trace := s.trace ++ manualEvents (s.frameAt s.frameNo) ++ [resultEvent c (s.frameAt s.frameNo)] } := by
  rw [run_operation hb hh hq, acquisition_manual (s := accept c { s with host := rest }) hm rfl]
  rfl

/-- A whole hardware operation from rest, by its own frame. -/
theorem run_hardware_operation (hm : s.mode = .hardware) (hb : s.busy = false)
    (hh : s.host = .request (.command c) :: rest) (hq : quietFor (operationSteps s.mode) rest) :
    run (operationSteps s.mode + 1) s = .next { s with
      opr := c
      frameNo := s.frameNo + 1
      rxb := (s.frameAt s.frameNo).extractLsb' 0 8
      buf := frameBytes (s.frameAt s.frameNo)
      cs := true
      sck := false
      seq := .idle
      busy := false
      host := rest.drop (operationSteps s.mode)
      trace := s.trace ++ hardwareEvents (s.frameAt s.frameNo) ++ [resultEvent c (s.frameAt s.frameNo)] } := by
  rw [run_operation hb hh hq, acquisition_hardware (s := accept c { s with host := rest }) hm rfl]
  rfl

/-- What a whole operation in either strategy leaves for the next one: it is at rest, in the same life, with one more
acquisition counted, and its own events and result in the trace. -/
theorem run_operation_to_rest (hb : s.busy = false) (hh : s.host = .request (.command c) :: rest)
    (hq : quietFor (operationSteps s.mode) rest) :
    ∃ t, run (operationSteps s.mode + 1) s = .next t ∧ t.busy = false ∧ t.mode = s.mode ∧
      t.frameAt = s.frameAt ∧ t.frameNo = s.frameNo + 1 ∧ t.host = rest.drop (operationSteps s.mode) ∧
      t.trace = s.trace ++ eventsOf s.mode (s.frameAt s.frameNo) ++ [resultEvent c (s.frameAt s.frameNo)] := by
  have hrun := run_operation hb hh hq
  rw [acquisition_eq (s := accept c { s with host := rest }) rfl] at hrun
  exact ⟨_, hrun, rfl, rfl, rfl, rfl, rfl, rfl⟩

end Operation

/-- Settles O37: the sampled frame is the operation's own, and its bits are the listed samples. -/
theorem manualOperationIsExact : Obligations.ManualOperationIsExact := by
  intro s c rest v hm hb hh hq hv
  have hsteps : operationSteps s.mode = 166 := by rw [hm]; rfl
  have hsample (i : Fin 32) : s.sampleAt s.frameNo i = sampleOf v i := (hv i).symm
  have hrun := run_manual_operation hm hb hh (by rwa [hsteps])
  rw [hsteps, ← State.eq_frameAt hv] at hrun
  rw [hrun]
  simp only [hsample, manualEvents, resultEvent, List.append_assoc, List.cons_append, List.nil_append]

/-- Settles O38: the sampled frame is the operation's own, and its bits are the listed samples. -/
theorem hardwareOperationIsExact : Obligations.HardwareOperationIsExact := by
  intro s c rest v hm hb hh hq hv
  have hsteps : operationSteps s.mode = 68 := by rw [hm]; rfl
  have hsample (i : Fin 32) : s.sampleAt s.frameNo i = sampleOf v i := (hv i).symm
  have hrun := run_hardware_operation hm hb hh (by rwa [hsteps])
  rw [hsteps, ← State.eq_frameAt hv] at hrun
  rw [hrun]
  simp only [hsample, hardwareEvents, resultEvent, frameBytes, List.append_assoc, List.cons_append, List.nil_append]

/-- Settles O39: either operation ends holding its own frame, which is the same for the same samples, and delivers the
result of it. -/
theorem strategiesAreEquivalent : Obligations.StrategiesAreEquivalent := by
  intro s₁ s₂ c rest₁ rest₂ hm₁ hm₂ hb₁ hb₂ hh₁ hh₂ hq₁ hq₂ hsame
  have hsteps₁ : operationSteps s₁.mode = 166 := by rw [hm₁]; rfl
  have hsteps₂ : operationSteps s₂.mode = 68 := by rw [hm₂]; rfl
  have hframe : s₁.frameAt s₁.frameNo = s₂.frameAt s₂.frameNo := congrArg frameValue (funext hsame)
  have hrun₁ := run_manual_operation hm₁ hb₁ hh₁ (by rwa [hsteps₁])
  have hrun₂ := run_hardware_operation hm₂ hb₂ hh₂ (by rwa [hsteps₂])
  rw [hsteps₁, hframe] at hrun₁
  rw [hsteps₂] at hrun₂
  refine ⟨_, _, (resultFor c (s₂.frameAt s₂.frameNo)).valid, (resultFor c (s₂.frameAt s₂.frameNo)).data, hrun₁, hrun₂,
    ?acquired, List.getLast?_concat, List.getLast?_concat⟩
  case acquired =>
    simp only [State.acquired, hm₁, hm₂]
    exact (bufferFrame_frameBytes _).symm

/-- Settles O40: each command takes the acquisition whose number `FRAME_NO` then is. -/
theorem twoReadsAreTwoFrames : Obligations.TwoReadsAreTwoFrames := by
  rintro s c d mid rest n rfl hb hh hlen hmid hrest
  have hq : quietFor (operationSteps s.mode) (mid ++ .request (.command d) :: rest) := by
    intro k hk
    rw [List.getD_append _ _ _ _ (hlen ▸ hk)]
    exact hmid k hk
  obtain ⟨t, hrun, hbt, hmode, hframe, hcount, hhost, htrace⟩ := run_operation_to_rest hb hh hq
  rw [← hlen, List.drop_left] at hhost
  rw [← hmode] at hrest
  obtain ⟨u, hrun', -, -, -, hcount', -, htrace'⟩ := run_operation_to_rest hbt hhost hrest
  rw [hmode] at hrun' htrace'
  refine ⟨u, ?_, by rw [hcount', hcount], ?_⟩
  · rw [two_mul, run_add_of_run hrun, hrun']
  · rw [htrace', htrace, hframe, hcount]
    rfl

end Sys2Proof.Machine
end

section
/-!
The reference peer (`20_memory.md` section 6): in either strategy it presents the top bit of its word
at the first sample, and the falling edge between two samples moves it to the next bit. So it answers the samples of an
acquisition exactly when they are the bits of its word.
-/

namespace Sys2Proof.Machine

/-! ### An acquisition, slot by slot -/

/-- The events before the first slot (R99, R108). -/
def openingEvents : Mode → List Event
  | .manual => [.write .sck false, .delay, .write .cs false, .delay]
  | .hardware => [.write .cs false, .delay]

/-- The events of the slot that takes one sample (R99, R108). -/
def slotEvents : Mode → Level → List Event
  | .manual, b => [.write .sck false, .delay, .sample b, .write .sck true, .delay]
  | .hardware, b => [.write .sck true, .sample b, .write .sck false]

theorem eventsOf_eq_slots (m : Mode) (v : Frame) :
    eventsOf m v = openingEvents m ++
      (((List.finRange 32).map (sampleOf v)).flatMap (slotEvents m) ++ [.write .cs true]) := by
  rw [List.flatMap_map, ← List.append_assoc]
  cases m <;> rfl

/-! ### The peer in a slot -/

theorem Peer.see_sck_cs (p : Peer) (b : Level) : (p.see (.write .sck b)).cs = p.cs := by
  simp only [Peer.see]
  split <;> rfl

theorem Peer.see_sck_sck (p : Peer) (b : Level) : (p.see (.write .sck b)).sck = b := by
  simp only [Peer.see]
  split <;> rfl

/-- A rising edge shifts nothing. -/
theorem Peer.see_rise_shift (p : Peer) : (p.see (.write .sck true)).shift = p.shift := by
  simp [Peer.see]

/-- A fall from a high clock shifts the selected peer. -/
theorem Peer.see_fall_shift {p : Peer} (hcs : p.cs = false) (hsck : p.sck = true) :
    (p.see (.write .sck false)).shift = p.shift <<< 1 := by
  simp [Peer.see, hcs, hsck]

theorem Peer.presents_of_selected {p : Peer} (hcs : p.cs = false) : p.presents = some (p.shift.getMsbD 0) := by
  simp [Peer.presents, hcs, BitVec.getMsbD]

/-- The peer is selected and presents the top bit of `w` at the sample of the slot to come: in `MANUAL` mode the falling
edge that may shift comes first in the slot, in `HARDWARE` mode it came last in the slot before. -/
def Peer.Offers (m : Mode) (w : Frame) (p : Peer) : Prop :=
  p.cs = false ∧ match m with
    | .manual => (p.see (.write .sck false)).shift = w
    | .hardware => p.shift = w

/-- The opening selects the peer, which loads its word. -/
theorem Peer.answers_opening (m : Mode) {p : Peer} (hcs : p.cs = true) (es : List Event) :
    ∃ q : Peer, q.Offers m p.word ∧ p.answers (openingEvents m ++ es) = q.answers es := by
  refine ⟨(openingEvents m).foldl Peer.see p, ?offers, ?answers⟩
  case offers => cases m <;> simp [openingEvents, Peer.see, Peer.Offers, hcs]
  case answers => cases m <;> simp [openingEvents, Peer.answers]

/-- In a slot the peer answers with the top bit and moves on to the next one. -/
theorem Peer.answers_slot {m : Mode} {w : Frame} {p : Peer} (h : p.Offers m w) (b : Level) (es : List Event) :
    ∃ q : Peer, q.Offers m (w <<< 1) ∧
      (p.answers (slotEvents m b ++ es) = true ↔ w.getMsbD 0 = b ∧ q.answers es = true) := by
  obtain ⟨hcs, hshift⟩ := h
  cases m with
  | manual =>
    have hlow : (p.see (.write .sck false)).cs = false := (p.see_sck_cs false).trans hcs
    refine ⟨(p.see (.write .sck false)).see (.write .sck true), ⟨?selected, ?offers⟩, ?answers⟩
    case selected => rw [Peer.see_sck_cs, hlow]
    case offers =>
      show ((Peer.see _ _).see (.write .sck false)).shift = w <<< 1
      rw [Peer.see_fall_shift (by rw [Peer.see_sck_cs, hlow]) (Peer.see_sck_sck _ _), Peer.see_rise_shift, hshift]
    case answers =>
      show ((p.see (.write .sck false)).presents == some b &&
        ((p.see (.write .sck false)).see (.write .sck true)).answers es) = true ↔ _
      rw [Peer.presents_of_selected hlow, hshift]
      simp
  | hardware =>
    have hrise : (p.see (.write .sck true)).cs = false := (p.see_sck_cs true).trans hcs
    refine ⟨(p.see (.write .sck true)).see (.write .sck false), ⟨?selected, ?offers⟩, ?answers⟩
    case selected => rw [Peer.see_sck_cs, hrise]
    case offers =>
      show ((Peer.see _ _).see (.write .sck false)).shift = w <<< 1
      rw [Peer.see_fall_shift hrise (Peer.see_sck_sck _ _), Peer.see_rise_shift, hshift]
    case answers =>
      show ((p.see (.write .sck true)).presents == some b && Peer.answers _ es) = true ↔ _
      rw [Peer.presents_of_selected hrise, Peer.see_rise_shift, hshift]
      simp

/-- The first `n` bits of a frame, most significant first. -/
def firstBits (w : Frame) (n : Nat) : List Level :=
  (List.range n).map w.getMsbD

theorem firstBits_succ (w : Frame) (n : Nat) : firstBits w (n + 1) = w.getMsbD 0 :: firstBits (w <<< 1) n := by
  simp [firstBits, List.range_succ_eq_map, Function.comp_def, BitVec.getMsbD_shiftLeft]

/-- Slot by slot the peer answers with its bits, most significant first. -/
theorem Peer.answers_slots {m : Mode} {w : Frame} {p : Peer} (h : p.Offers m w) (bs : List Level) (es : List Event) :
    ∃ q : Peer, p.answers (bs.flatMap (slotEvents m) ++ es) = true ↔
      bs = firstBits w bs.length ∧ q.answers es = true := by
  induction bs generalizing p w with
  | nil => exact ⟨p, by simp [firstBits]⟩
  | cons b bs ih =>
    obtain ⟨q, hq, hslot⟩ := Peer.answers_slot h b (bs.flatMap (slotEvents m) ++ es)
    obtain ⟨r, hr⟩ := ih hq
    refine ⟨r, ?_⟩
    rw [List.flatMap_cons, List.append_assoc, hslot, hr, List.length_cons, firstBits_succ, List.cons.injEq,
      eq_comm (a := b), and_assoc]

theorem map_sampleOf_eq_firstBits (v : Frame) : (List.finRange 32).map (sampleOf v) = firstBits v 32 := by
  rw [firstBits, ← List.map_coe_finRange_eq_range, List.map_map]
  refine List.map_congr_left fun i _ => ?_
  simp [sampleOf, BitVec.getMsbD]

theorem firstBits_inj (v w : Frame) : firstBits v 32 = firstBits w 32 ↔ v = w := by
  rw [firstBits, firstBits, List.map_inj_left]
  constructor
  · intro h
    exact BitVec.eq_of_getMsbD_eq fun i hi => h i (List.mem_range.mpr hi)
  · rintro rfl i -
    rfl

/-- Settles O59: an acquisition is an opening, 32 slots and the deselection, at which nothing is sampled. -/
theorem bothStrategiesReadTheReferencePeer : Obligations.BothStrategiesReadTheReferencePeer := by
  intro p v m hcs
  obtain ⟨q, hq, hopen⟩ := Peer.answers_opening m hcs ((firstBits v 32).flatMap (slotEvents m) ++ [.write .cs true])
  obtain ⟨r, hr⟩ := Peer.answers_slots hq (firstBits v 32) [.write .cs true]
  have hlength : (firstBits v 32).length = 32 := by simp [firstBits]
  have hlast : r.answers [.write .cs true] = true := by simp [Peer.answers]
  rw [eventsOf_eq_slots, map_sampleOf_eq_firstBits, hopen, hr, hlength, firstBits_inj, hlast, and_iff_left rfl]

end Sys2Proof.Machine
end
